-- ==== Sys2Proof/Word.lean ====
section
/-! DEFINITION. The word types of the ZNX5 (spec/00_scope.md R7, R11). -/

namespace Sys2Proof

/-- One cell of the model's memory; the machine itself has no unit below the word (R51). -/
abbrev Byte := BitVec 8

/-- `Word32` of R11: an integer register, an address, a memory word, an instruction. -/
abbrev Word := BitVec 32

/-- `Word64` of R11: the contents of a floating-point register. -/
abbrev Word64 := BitVec 64

/-- The contents of a SIMD register (R36). -/
abbrev Word256 := BitVec 256

/-- `hi32(d) = d[63:32]` of R11. -/
def hi32 (d : Word64) : Word := d.extractLsb' 32 32

/-- `lo32(d) = d[31:0]` of R11. -/
def lo32 (d : Word64) : Word := d.extractLsb' 0 32

end Sys2Proof
end

