-- ==== Sys2Proof/Config.lean ====
section
/-! DEFINITION. What the implementation fixes or leaves open: a size the source gives, the parameters of R9 that are no
part of State, and the values the spec leaves open. A value left open is an `opaque` constant with no body, so a claim
holds for every value of it. The points the spec itself decides (R8) are fields of Config too, in
Sys2Proof/Machine/Decisions.lean, and the record `FPNUM` is in Sys2Proof/Machine/Float.lean. -/

namespace Sys2Proof.Config

/-- `IBUF_DEPTH` of R7 and R37: "256-deep interrupt buffer (additional interrupts dropped)". -/
def ibufDepth : Nat := 256

/-- `RESET_PC` of R9, which the spec leaves OPEN (D35). DESIGN CHOICE (log entry 4): word address 0. -/
def resetPc : Word := 0

/-- `VEC` of R9 and R286, OPEN (D30): where control goes when interrupt `n` is delivered. Nothing is assumed of it. -/
opaque vec : BitVec 8 → Word

/-- The n-th 32-bit value the machine produces where the spec says "unspecified (a model draws any Word32)"
(R210, R266; U5, U6). -/
opaque freeWord : Nat → Word

/-- The n-th choice of a NaN's sign and payload (R191, U8); only those bits of it are used. -/
opaque freeNan : Nat → Word64

/-- `fp_sin` of R191: uninterpreted, a function of the operand's bits alone (D24, U11). -/
opaque fpSin : Word64 → Word64

/-- `fp_cos` of R191: uninterpreted (D24, U11). -/
opaque fpCos : Word64 → Word64

/-- `fp_log2p1` of R191: uninterpreted (D24, U11). -/
opaque fpLog2p1 : Word64 → Word64

/-- `fp_exp2m1` of R191: uninterpreted (D24, U11). -/
opaque fpExp2m1 : Word64 → Word64

/-- `fp_atan` of R191: uninterpreted, a function of both operands' bits (D24, U11). -/
opaque fpAtan : Word64 → Word64 → Word64

/-- Where the flags and S stand in the status word: the bit number of each (R32). -/
structure StLayout where
  z : Nat
  n : Nat
  v : Nat
  c : Nat
  fz : Nat
  fn : Nat
  finf : Nat
  fnnf : Nat
  fnan : Nat
  fdn : Nat
  s : Nat
  deriving DecidableEq, Repr

end Sys2Proof.Config
end

