-- ==== Sys2Proof/Machine/Decisions.lean ====
section
/-! DEFINITION. The configuration fields of R8: the points the source leaves open and the spec decides, each at the
spec's own choice, under the number the decision has in spec/92_eei_decisions.md. The machine reads them here and fixes
none of them elsewhere, so a later source overrules a choice by changing one definition (log entries 10, 18 and 19). The
fields that need types of later files stand there: the FP1 op map (D3) in Decode.lean, the reset mode (D35) in State.lean,
the format (D19), the class flags (D20) and `FPNUM` (D19, D24) in Float.lean. -/

namespace Sys2Proof.Config

/-! ## The instruction word -/

/-- D1: position 1 of an encoding diagram, the leftmost, is bit 31. If not, position `p` is bit `p - 1`. -/
def positionOneIsMsb : Bool := true

/-- D2: the op numbers of the INT3 instructions, in the order the source prints them (R84). -/
def int3Ops : List Nat := List.range 15

/-- D2: the op numbers of INT2 in printed order (R85). -/
def int2Ops : List Nat := List.range 11

/-- D2: the op numbers of INT1 in printed order, the aliases left out (R86). -/
def int1Ops : List Nat := List.range 36

/-- D2: the op numbers of FP3 in printed order (R87). -/
def fp3Ops : List Nat := List.range 5

/-- D2: the op numbers of FP2 in printed order (R88). -/
def fp2Ops : List Nat := List.range 11

/-- D2: the op numbers of ZERO in printed order (R90). -/
def zeroOps : List Nat := List.range 20

/-- D4: the number that `%i0` has in a register field; `%i1`..`%if` and then `%d0`..`%df` follow it modulo 32 (R21). -/
def i0Number : Fin 32 := 0

/-! ## The program counter, memory and the stacks -/

/-- D5: what `%pc` holds, as an instruction reads it, during the instruction at `next - 1`: the address `next` of the one
after it (R27). Where the machine goes on is no part of this choice (R28). -/
def pcDuring (next : Word) : Word := next

/-- D22: the number of sets of `%f` and of `%m` registers: one, shared by both modes (R35, R36). With 2, the supervisor has
its own. -/
abbrev floatBanks : Nat := 1

/-- `TRANSLATE` of R9, at the identity in both modes that the spec takes (D36, R62). -/
def translate (a : Word) : Word := a

/-- D7: stacks grow toward lower addresses (R57). -/
def stackDescends : Bool := true

/-- D7: the stack pointer addresses the last item and not the next free word (R57). -/
def stackFull : Bool := true

/-- D9: bit 0 is Z and so on in the source's order up to S in bit 10 (R32). -/
def stLayout : StLayout := ⟨0, 1, 2, 3, 4, 5, 6, 7, 8, 9, 10⟩

/-- `F64_HIGH_FIRST` of D21: bits 63:32 of a 64-bit value lie at the lower address (R55). -/
def f64HighFirst : Bool := true

/-! ## Integer results and flags -/

/-- D10: Z of a result (R34). -/
def zFlag (r : Word) : Bool := decide (r = 0)

/-- D10: N of a result (R34). -/
def nFlag (r : Word) : Bool := r.msb

/-- D11: V of an addition or subtraction whose exact signed result is `t` (R101). -/
def vFlag (t : Int) : Bool := decide (t < -2 ^ 31) || decide (2 ^ 31 - 1 < t)

/-- D11: C of an addition whose exact unsigned result is `t`, the carry out of bit 31 (R101). -/
def carryFlag (t : Nat) : Bool := decide (2 ^ 32 ≤ t)

/-- D11: C of a subtraction whose exact unsigned result is `t`: 1 means no borrow (R101). -/
def noBorrowFlag (t : Int) : Bool := decide (0 ≤ t)

/-- D12: `mullo`, `mulhi`, `div` and `mod` are unsigned (R109, R110, R114, R116). -/
def unsuffixedUnsigned : Bool := true

/-- D12: the result and V of a division by zero (R113). -/
def zeroDivisor : Word × Bool := (0, true)

/-- D12: the result and V of `divs` of -2^31 by -1 (R115). -/
def quotientOverflow : Word × Bool := (0x80000000, true)

/-- D12: the result and V of `mods` of -2^31 by -1 (R117). -/
def remainderOverflow : Word × Bool := (0, false)

/-- D12: how a signed quotient is rounded: toward zero (R115). -/
def signedQuotient (a b : Int) : Int := a.tdiv b

/-- D12: the remainder that goes with it, of the sign of the dividend (R117). -/
def signedRemainder (a b : Int) : Int := a.tmod b

/-- `CMP_SIGNED` of D13: `cmp` compares the signed readings (R125). -/
def cmpSigned : Bool := true

/-- D14: the count a register gives a shift or rotation: its low five bits (R127). -/
def shiftCount (w : Word) : Nat := w.toNat % 32

/-- D14: V and C of a shift or rotation of `v` to the left by `n`: any 1 bit among `v[31:32-n]`, and `v[32-n]`; both 0
if nothing moves (R127, R128, R130, R132). -/
def leftFlags (v : Word) (n : Nat) : Bool × Bool :=
  if n = 0 then (false, false) else (decide (v.toNat / 2 ^ (32 - n) ≠ 0), v.getLsbD (32 - n))

/-- D14: V and C of a shift or rotation of `v` to the right by `n`: any 1 bit among `v[n-1:0]`, and `v[n-1]`; both 0 if
nothing moves (R127, R129, R131, R133). -/
def rightFlags (v : Word) (n : Nat) : Bool × Bool :=
  if n = 0 then (false, false) else (decide (v.toNat % 2 ^ n ≠ 0), v.getLsbD (n - 1))

/-- D14: `asl` is `shl`, its V included (R128). If not, V of `asl` reports a change of sign. -/
def aslIsShl : Bool := true

/-- D14: rotations go through C, as one move of the 33 bits of C and the register; they do not (R127). -/
def rotatesThroughC : Bool := false

/-- D18: V of `neg` (R144). -/
def negV (v : Word) : Bool := decide (v = 0x80000000)

/-- D18: V of `inc` (R147). -/
def incV (v : Word) : Bool := decide (v = 0x7FFFFFFF)

/-- D18: V of `dec` (R148). -/
def decV (v : Word) : Bool := decide (v = 0x80000000)

/-! ## Floating point -/

/-- D23: the integer that `fitof` reads in a word: the signed one (R209). -/
def fitofValue (v : Word) : Int := v.toInt

/-- D23: the integers that `fftoi` can give: those of a signed word (R210). -/
def fftoiRange (t : Int) : Bool := decide (-2 ^ 31 ≤ t) && decide (t ≤ 2 ^ 31 - 1)

/-- D23: V of `fftoi`, where the operand gives no integer and where it gives one (R210). -/
def fftoiV (fits : Bool) : Bool := !fits

/-- D25: the pattern of `fpi`, PRESUMED (log entry 27): the binary64 nearest to pi (R231). -/
def piBits : Word64 := 0x400921FB54442D18

/-- D25: the pattern of `fe`, PRESUMED (log entry 27): the binary64 nearest to e (R232). -/
def eBits : Word64 := 0x4005BF0A8B145769

/-! ## Interrupts, reset, and the SIMD space -/

/-- D29: the buffer is first in, first out (R37, R283). -/
def bufferFifo : Bool := true

/-- D29: requests are held while the mode is supervisor (R284, R290). -/
def heldInSupervisor : Bool := true

/-- D31: `int N` appends N to the buffer, from where it is delivered like any other request (R264). If not, it is
delivered at once. -/
def intIsBuffered : Bool := true

/-- D32: a stopped core in supervisor mode goes on when the buffer is not empty (R38, R300). -/
def stopEndsInSupervisor : Bool := true

/-- D35: the interrupt buffer after reset: empty (R41, R311). -/
def resetBuffer : List (BitVec 8) := []

/-- D35: the wait bit after reset: the core is not stopped (R41, R311). -/
def resetStopped : Bool := false

/-- `SIMD_NOP_EXECUTES` of U3: the word 0x11000000 is a no-operation (R240). -/
def simdNopExecutes : Bool := true

end Sys2Proof.Config
end

