-- ==== Sys2Proof/Machine/State.lean ====
section
/-! DEFINITION. The state of one ZNX5 core with its memory and its environment, the ways a step can stop, and the state
right after reset (spec/10_state.md, spec/60_exceptions.md, spec/70_reset_and_hazards.md). -/

namespace Sys2Proof.Machine

/-- The two modes (R31, R293): "Dual mode: user, supervisor/interrupt". -/
inductive Mode where
  | user
  | supervisor
  deriving DecidableEq, Repr

/-- The ten flags of one status register (R30, R31). The eleventh, S, is the mode and is stored nowhere else. -/
structure Flags where
  /-- Z, zero. -/
  z : Bool
  /-- N, negative. -/
  n : Bool
  /-- V, overflow or divide by zero. -/
  v : Bool
  /-- C, carry. -/
  c : Bool
  /-- FZ, float zero. -/
  fz : Bool
  /-- FN, float negative. -/
  fn : Bool
  /-- FINF, (positive) infinity. -/
  finf : Bool
  /-- FNNF, negative infinity. -/
  fnnf : Bool
  /-- FNAN, not a number. -/
  fnan : Bool
  /-- FDN, denormalized. -/
  fdn : Bool
  deriving DecidableEq, Repr

/-- All ten flags 0: what `call` leaves (R180), and the reset value of both registers (log entry 2). -/
def Flags.clear : Flags := ⟨false, false, false, false, false, false, false, false, false, false⟩

/-- What `MEMMAP` says of an address it lists (R59). -/
inductive RegionKind where
  /-- Reads return the last value written and writes have no other effect. -/
  | memory
  /-- Belongs to a device; no source says how one behaves. -/
  | device
  deriving DecidableEq, Repr

/-- A run of `size` word addresses from `base`, all of one kind. An address in no region is absent (R59). -/
structure Region where
  base : Nat
  size : Nat
  kind : RegionKind
  deriving DecidableEq, Repr

/-- The external interrupts of one step of `EXT_IRQ` (R282, R288): those the environment appends between the previous
step and this one, and those that arrive while this step runs. -/
structure Arrivals where
  between : List (BitVec 8)
  during : List (BitVec 8)
  deriving DecidableEq, Repr

/-- Memory: the bytes that hold a written word, at strictly rising keys. The word at address `a` is the four bytes at
keys `4a`..`4a+3` (log entry 5). An unlisted key has no value (R42). -/
abbrev Memory := List Host.Cell

/-- The state of the machine. The fields down to `mem` are the spec's; the rest are the model's own, each for a rule of
the spec named beside it. -/
structure State where
  /-- User bank `xu[0..30]`: `%i0`..`%if`, `%d0`..`%de` of user mode (R23). -/
  xu : Vector Word 31
  /-- Supervisor bank `xs[0..30]` (R23). -/
  xs : Vector Word 31
  /-- `%pc` = `%df`, register 31, shared by both modes (R23, R27). -/
  pc : Word
  /-- The user status register `stu` (R31). -/
  stu : Flags
  /-- The supervisor status register `sts` (R31). -/
  sts : Flags
  /-- The mode, which is the S flag (R31). -/
  mode : Mode
  /-- `%f0`..`%ff`: one set, shared by both modes (R35, D22). -/
  f : Vector Word64 (16 * Config.floatBanks)
  /-- `%m0`..`%m3`: one set, shared by both modes and reached by no instruction (R36, R242, D22). -/
  m : Vector Word256 (4 * Config.floatBanks)
  /-- The interrupt buffer, in the order of delivery, which is oldest first (R37, R283). -/
  ibuf : List (BitVec 8)
  /-- Set by `stop` while the core waits (R38). -/
  stopped : Bool
  /-- Memory (R50). -/
  mem : Memory
  /-- Word addresses stored to by the last instruction executed, or by the one being executed, newest first (R67). -/
  storesLast : List Word
  /-- Word addresses stored to by the instruction before it (R67). -/
  storesPrev : List Word
  /-- How many unspecified values have been drawn (U5, U6, U8): the argument of the next draw. -/
  draws : Nat
  /-- The rest of the environment's schedule `EXT_IRQ`, one entry a step; past its end nothing arrives (R282). -/
  extIrq : List Arrivals
  /-- The open parameter `MEMMAP` (R59), which no step changes. -/
  memMap : List Region
  /-- The entries of the open parameter `VEC` that the platform fixes; the others are `Config.vec` (R286). -/
  vectors : List (BitVec 8 × Word)
  deriving DecidableEq, Repr

/-- Why the machine is stuck. The hardware raises no exception for either: these are stops of the model (R60, R42). -/
inductive Fault where
  /-- A fetch, load or store at an address that `MEMMAP` does not list (R60, U4). Safe: the model stops. -/
  | absentAddress
  /-- A fetch or load of a memory word that nothing has written since reset (R42, U7). Safe: the model stops. -/
  | unwrittenMemory
  deriving DecidableEq, Repr

/-- Why the model gives a step no meaning, `Refuse(reason)` of R14. -/
inductive Refusal where
  /-- An arm of `exec` whose instruction has no meaning yet. Safe. -/
  | notModelled (mnemonic : String)
  /-- The word at the program counter has an unassigned op value or prefix (R92, R241, U1). Safe. -/
  | reservedEncoding
  /-- The word has literal mode on an operation the source gives none (R93, U12). Safe. -/
  | reservedOperandForm
  /-- `pushu`, `popu` or `user` in user mode (R257, U2). Safe. -/
  | supervisorOnly
  /-- An access to an address of a device, whose behaviour no source gives (R60, U4). Safe. -/
  | deviceAccess
  /-- A store, by the instruction at `A`, to `A + 1` or `A + 2` (R67, U9). Safe. -/
  | storeIntoNextWords
  /-- A fetch from an address that one of the two instructions before stored to (R67, U9). Safe. -/
  | staleFetch
  deriving DecidableEq, Repr

/-- The mode after reset, the spec's choice (D35, R41, R311). -/
def resetMode : Mode := .supervisor

/-- The state right after reset with execution starting at `pc` (R41, R311): supervisor mode, empty buffer, not stopped,
memory with nothing written. The register and flag values are the model's (log entries 1 to 3), as are the silent
environment and the memory map, which makes every word address memory (log entries 7 and 9). -/
def State.resetAt (pc : Word) : State where
  xu := Vector.replicate 31 0
  xs := Vector.replicate 31 0
  pc := pc
  stu := Flags.clear
  sts := Flags.clear
  mode := resetMode
  f := Vector.replicate _ 0
  m := Vector.replicate _ 0
  ibuf := Config.resetBuffer
  stopped := Config.resetStopped
  mem := []
  storesLast := []
  storesPrev := []
  draws := 0
  extIrq := []
  memMap := [⟨0, 2 ^ 32, .memory⟩]
  vectors := []

/-- The state right after reset, with `RESET_PC` as `Config.resetPc` has it (R311, log entry 4). -/
def State.reset : State := State.resetAt Config.resetPc

end Sys2Proof.Machine
end

