-- ==== Sys2Proof/Machine/Float.lean ====
section
/-! DEFINITION. The floating-point numerics: the format of a pattern (R190, D19), the record `FPNUM` (R9, R191, U16), its default, which is IEEE 754 binary64
with round to nearest, ties to even, and subnormals kept (R190, R191, D19), and the six class flags (R192). A function
answers `none` where the result is a NaN, whose sign and payload the spec leaves unspecified (U8). In the default,
operands are turned into exact integers, the operation is done exactly, and the result is rounded once, in `roundPack`.
-/

namespace Sys2Proof.Machine

/-! ## Classes of bit patterns (R190) -/

/-- The sign, bit 63. -/
def fSign (d : Word64) : Bool := d.getLsbD 63

/-- The biased exponent, bits 62:52. -/
def fExp (d : Word64) : Nat := d.toNat / 2 ^ 52 % 2 ^ 11

/-- The fraction, bits 51:0. -/
def fFrac (d : Word64) : Nat := d.toNat % 2 ^ 52

/-- Exponent all ones, fraction not 0. -/
def isNan (d : Word64) : Bool := decide (fExp d = 2047) && decide (fFrac d ≠ 0)

/-- Exponent all ones, fraction 0. -/
def isInf (d : Word64) : Bool := decide (fExp d = 2047) && decide (fFrac d = 0)

/-- +0 or -0. -/
def isZero (d : Word64) : Bool := decide (fExp d = 0) && decide (fFrac d = 0)

/-- Exponent 0, fraction not 0. -/
def isDenorm (d : Word64) : Bool := decide (fExp d = 0) && decide (fFrac d ≠ 0)

/-- The significand of a finite pattern: its magnitude is `fMant d * 2 ^ fPow d`. -/
def fMant (d : Word64) : Nat := if fExp d = 0 then fFrac d else 2 ^ 52 + fFrac d

/-- The power of two that goes with `fMant`. -/
def fPow (d : Word64) : Int := if fExp d = 0 then -1074 else (fExp d : Int) - 1075

/-! ## Building patterns -/

/-- The pattern of sign `sg` and bits 62:0 `k`. -/
def pack (sg : Bool) (k : Nat) : Word64 := BitVec.ofNat 64 (sg.toNat * 2 ^ 63 + k)

/-- A zero. -/
def zeroOf (sg : Bool) : Word64 := pack sg 0

/-- An infinity. -/
def infOf (sg : Bool) : Word64 := pack sg (2047 * 2 ^ 52)

/-- `m / 2 ^ k` rounded to the nearest integer, ties to even; `sticky` says that a little more than `m` is meant. -/
def roundShift (m k : Nat) (sticky : Bool) : Nat :=
  let q := m / 2 ^ k
  let rest := 2 * (m % 2 ^ k)
  if 2 ^ k < rest ∨ (rest = 2 ^ k ∧ (sticky ∨ q % 2 = 1)) then q + 1 else q

/-- The binary64 nearest to `m * 2 ^ e`, or to a little more than it where `sticky`; too large a magnitude gives an
infinity, too small a one a subnormal or a zero. A caller that sets `sticky` gives an `m` of more than 53 bits. -/
def roundPack (sg : Bool) (m : Nat) (e : Int) (sticky : Bool) : Word64 :=
  let q := max (e + (Nat.log2 m + 1 : Nat) - 53) (-1074)
  let r := if q ≤ e then m * 2 ^ (e - q).toNat else roundShift m (q - e).toNat sticky
  let k := if r < 2 ^ 52 then r else (q + 1075).toNat * 2 ^ 52 + (r - 2 ^ 52)
  if 2047 * 2 ^ 52 ≤ k then infOf sg else pack sg k

/-- The integer square root, bit by bit: the largest root below `r + 2 ^ b` whose square is at most `n`. -/
def sqrtBits (n : Nat) : Nat → Nat → Nat
  | 0, r => r
  | b + 1, r => if (r + 2 ^ b) * (r + 2 ^ b) ≤ n then sqrtBits n b (r + 2 ^ b) else sqrtBits n b r

/-! ## The format -/

/-- Bit 63 inverted (R228). -/
def fpNeg (a : Word64) : Word64 := a ^^^ 0x8000000000000000

/-- Bit 63 cleared (R229). -/
def fpAbs (a : Word64) : Word64 := a &&& 0x7FFFFFFFFFFFFFFF

/-- An integer that orders the patterns that are no NaN as their values are ordered, both zeros at 0. -/
def orderKey (d : Word64) : Int :=
  if fSign d then -((d.toNat % 2 ^ 63 : Nat) : Int) else ((d.toNat % 2 ^ 63 : Nat) : Int)

/-- The NaN whose sign and payload are those bits of `d`; a zero payload, which no NaN has, becomes 1. -/
def nanOf (d : Word64) : Word64 :=
  if d.extractLsb' 0 52 = 0 then d.extractLsb' 63 1 ++ (0x7FF : BitVec 11) ++ (1 : BitVec 52)
  else d.extractLsb' 63 1 ++ (0x7FF : BitVec 11) ++ d.extractLsb' 0 52

/-- All that the machine knows of the format of a 64-bit pattern outside `FPNUM`: its classes (R190, R192), its sign and
its order (R216, R228, R229), its zero (R230), and its NaNs (R191). -/
structure FpFormat where
  /-- The pattern is a NaN. -/
  isNan : Word64 → Bool
  /-- The pattern is an infinity. -/
  isInf : Word64 → Bool
  /-- The pattern is a zero. -/
  isZero : Word64 → Bool
  /-- The pattern is denormalized. -/
  isDenorm : Word64 → Bool
  /-- The sign is negative. -/
  sign : Word64 → Bool
  /-- An integer that orders the patterns that are no NaN as their values are ordered. -/
  order : Word64 → Int
  /-- The sign changed. -/
  neg : Word64 → Word64
  /-- The sign cleared. -/
  abs : Word64 → Word64
  /-- +0.0. -/
  zero : Word64
  /-- A NaN for each pattern, of which it takes the sign and the payload. -/
  nanOf : Word64 → Word64

/-- IEEE 754 binary64 (R190). -/
def binary64 : FpFormat where
  isNan := isNan
  isInf := isInf
  isZero := isZero
  isDenorm := isDenorm
  sign := fSign
  order := orderKey
  neg := fpNeg
  abs := fpAbs
  zero := zeroOf false
  nanOf := nanOf

/-! ## Arithmetic (R191, R194 to R197, R211) -/

/-- The signed significand of a finite pattern, scaled to the power `e`, which is at most its own. -/
def scaled (d : Word64) (e : Int) : Int :=
  if fSign d then -((fMant d * 2 ^ (fPow d - e).toNat : Nat) : Int) else ((fMant d * 2 ^ (fPow d - e).toNat : Nat) : Int)

/-- The sum of two finite patterns; an exact zero is +0 unless both operands have the sign -. -/
def addFinite (a b : Word64) : Word64 :=
  let e := min (fPow a) (fPow b)
  let t := scaled a e + scaled b e
  if t = 0 then zeroOf (fSign a && fSign b) else roundPack (decide (t < 0)) t.natAbs e false

/-- `fp_add`. -/
def fpAdd (a b : Word64) : Option Word64 :=
  if isNan a || isNan b then none
  else if isInf a then (if isInf b && fSign a != fSign b then none else some a)
  else if isInf b then some b
  else some (addFinite a b)

/-- `fp_sub(a, b)` is F - G (R195). -/
def fpSub (a b : Word64) : Option Word64 := fpAdd a (fpNeg b)

/-- `fp_mul`. -/
def fpMul (a b : Word64) : Option Word64 :=
  let sg := fSign a != fSign b
  if isNan a || isNan b then none
  else if isInf a || isInf b then (if isZero a || isZero b then none else some (infOf sg))
  else if isZero a || isZero b then some (zeroOf sg)
  else some (roundPack sg (fMant a * fMant b) (fPow a + fPow b) false)

/-- `fp_div(a, b)` is F / G (R197). -/
def fpDiv (a b : Word64) : Option Word64 :=
  let sg := fSign a != fSign b
  if isNan a || isNan b then none
  else if isInf a then (if isInf b then none else some (infOf sg))
  else if isInf b then some (zeroOf sg)
  else if isZero b then (if isZero a then none else some (infOf sg))
  else if isZero a then some (zeroOf sg)
  else
    let n := fMant a * 2 ^ 110
    some (roundPack sg (n / fMant b) (fPow a - fPow b - 110) (decide (n % fMant b ≠ 0)))

/-- `fp_sqrt` (R211). -/
def fpSqrt (a : Word64) : Option Word64 :=
  if isNan a then none
  else if isZero a then some a
  else if fSign a then none
  else if isInf a then some a
  else
    let k := if fPow a % 2 = 0 then 112 else 113
    let n := fMant a * 2 ^ k
    let r := sqrtBits n 84 0
    some (roundPack false r ((fPow a - (k : Nat)) / 2) (decide (r * r ≠ n)))

/-! ## Conversions (R209, R210) -/

/-- `fp_of_int(v)`: the value of the integer read in `v`, which is always exact. -/
def fpOfInt (v : Word) : Word64 :=
  if v = 0 then zeroOf false
  else roundPack (decide (Config.fitofValue v < 0)) (Config.fitofValue v).natAbs 0 false

/-- The value of a finite pattern truncated toward zero (D23). -/
def fTrunc (a : Word64) : Int :=
  let k := if 0 ≤ fPow a then fMant a * 2 ^ (fPow a).toNat else fMant a / 2 ^ (-fPow a).toNat
  if fSign a then -(k : Int) else (k : Int)

/-- `fp_to_int` on its in-range part; `none` for a NaN, an infinity or a value that no signed word holds. -/
def fpToInt (a : Word64) : Option Word :=
  if fExp a = 2047 then none
  else if Config.fftoiRange (fTrunc a) then some (BitVec.ofInt 32 (fTrunc a))
  else none

/-! ## `FPNUM` -/

/-- The record `FPNUM` of R9 and R191: total functions, each result depending on the operands alone. `none` is a NaN
whose sign and payload are left open (U8), or, of `toInt`, an operand that gives no integer (R210). -/
structure FpNum where
  /-- `fp_add(a, b)`. -/
  add : Word64 → Word64 → Option Word64
  /-- `fp_sub(a, b)`. -/
  sub : Word64 → Word64 → Option Word64
  /-- `fp_mul(a, b)`. -/
  mul : Word64 → Word64 → Option Word64
  /-- `fp_div(a, b)`. -/
  div : Word64 → Word64 → Option Word64
  /-- `fp_sqrt(a)`. -/
  sqrt : Word64 → Option Word64
  /-- `fp_sin(a)`. -/
  sin : Word64 → Word64
  /-- `fp_cos(a)`. -/
  cos : Word64 → Word64
  /-- `fp_log2p1(a)`. -/
  log2p1 : Word64 → Word64
  /-- `fp_exp2m1(a)`. -/
  exp2m1 : Word64 → Word64
  /-- `fp_atan(a, b)`. -/
  atan : Word64 → Word64 → Word64
  /-- `fp_of_int(v)`. -/
  ofInt : Word → Word64
  /-- `fp_to_int(a)`. -/
  toInt : Word64 → Option Word

/-- The spec's default (R191, D19, PRESUMED in log entry 17), with the uninterpreted transcendental functions, which have
none (D24). -/
def ieeeFpNum : FpNum where
  add := fpAdd
  sub := fpSub
  mul := fpMul
  div := fpDiv
  sqrt := fpSqrt
  sin := Config.fpSin
  cos := Config.fpCos
  log2p1 := Config.fpLog2p1
  exp2m1 := Config.fpExp2m1
  atan := Config.fpAtan
  ofInt := fpOfInt
  toInt := fpToInt

end Sys2Proof.Machine

/-! ## Configuration fields of R8 and R9 that take the terms above -/

namespace Sys2Proof.Config
open Machine

/-- D19: the format of a floating-point pattern (R190). -/
def fpFormat : FpFormat := binary64

/-- `FPNUM` of R9, at the spec's default. The instructions are functions of the record, and run at this one. -/
def fpnum : FpNum := ieeeFpNum

/-- D20: FNAN is any NaN (R192). -/
def fnanFlag (d : Word64) : Bool := fpFormat.isNan d

/-- D20: FINF is +infinity only (R192). -/
def finfFlag (d : Word64) : Bool := fpFormat.isInf d && !fpFormat.sign d

/-- D20: FNNF is -infinity (R192). -/
def fnnfFlag (d : Word64) : Bool := fpFormat.isInf d && fpFormat.sign d

/-- D20: FZ is either zero (R192). -/
def fzFlag (d : Word64) : Bool := fpFormat.isZero d

/-- D20: FN is a value below zero, so not -0 and not a NaN, but -infinity (R192). -/
def fnFlag (d : Word64) : Bool := fpFormat.sign d && !fpFormat.isZero d && !fpFormat.isNan d

/-- D20: FDN is a subnormal (R192). -/
def fdnFlag (d : Word64) : Bool := fpFormat.isDenorm d

end Sys2Proof.Config

namespace Sys2Proof.Machine

/-! ## Comparison (R216) and class flags (R192) -/

/-- FNAN, FZ and FN of `fcmp a, b`; the other flags stay. -/
def Flags.setFcmp (fl : Flags) (a b : Word64) : Flags :=
  let fmt := Config.fpFormat
  let nan := fmt.isNan a || fmt.isNan b
  { fl with
    fnan := nan
    fz := !nan && decide (fmt.order a = fmt.order b)
    fn := !nan && decide (fmt.order a < fmt.order b) }

/-- `SetAllF(d)` of R192: "[all F]". -/
def Flags.setAllF (fl : Flags) (d : Word64) : Flags :=
  { fl with
    fnan := Config.fnanFlag d
    finf := Config.finfFlag d
    fnnf := Config.fnnfFlag d
    fz := Config.fzFlag d
    fn := Config.fnFlag d
    fdn := Config.fdnFlag d }

/-- FZ and FN of `fitof`, from the integer; the other flags stay (R209). -/
def Flags.setFitof (fl : Flags) (v : Word) : Flags :=
  { fl with fz := decide (v = 0), fn := decide (Config.fitofValue v < 0) }

end Sys2Proof.Machine
end

