-- ==== Sys2Proof/Syntax.lean ====
section
/-! DEFINITION. The instructions of the ZNX5, one constructor for each row of spec/opcode_table.json. A mnemonic that
the source uses twice has the table's unique id here (R98): `fld`, `fst`, `fcp`, `fclr`, `fpush`, `fpop`, `simdNop`. The
aliases `ble` and `bfle` are `bpl` and `bfpl` (R97, R177, R178) and have no constructor. -/

namespace Sys2Proof

/-- An integer register, by its place in `%i0`..`%if`, `%d0`..`%df`: the `i` of `x[i]` (R12, R21). Its number in a field
is `regNumber` (D4). -/
abbrev Reg := Fin 32

/-- The number of a floating-point register, `%f0`..`%ff` (R35). -/
abbrev FReg := Fin 16

/-- `%lr`, the link register, is another spelling of `%if` (R22). -/
def lrReg : Reg := 15

/-- `%sp`, the current mode's stack pointer, is another spelling of `%de` (R22). -/
def spReg : Reg := 30

/-- `%pc` is another spelling of `%df` (R22). -/
def pcReg : Reg := 31

/-- Operand Y of a three-operand integer instruction (R73). -/
inductive Src where
  /-- `m` = 0: a register. -/
  | reg (r : Reg)
  /-- `m` = 1: "a literal number ranging from -2^15 to 2^15-1". -/
  | lit (v : Int)
  deriving DecidableEq, Repr

/-- Operand Y of a shift or rotation (R75, R127). -/
inductive Count where
  /-- `m` = 0: the low five bits of a register. -/
  | reg (r : Reg)
  /-- `m` = 1: "a literal number ranging from 0,31". -/
  | lit (n : Nat)
  deriving DecidableEq, Repr

/-- Operand X of a branch, `jmp` or `call` (R77, R150). -/
inductive Target where
  /-- `m` = 0: the absolute word address in a register. -/
  | reg (r : Reg)
  /-- `m` = 1: a signed distance in words from the address after the instruction. -/
  | rel (v : Int)
  deriving DecidableEq, Repr

/-- The instructions, in the table's order (R84 to R90). -/
inductive Instr where

  -- INT3: three-operand integer
  /-- `and X, Y, Z` (R102). -/
  | and (x : Reg) (y : Src) (z : Reg)
  /-- `or X, Y, Z` (R103). -/
  | or (x : Reg) (y : Src) (z : Reg)
  /-- `xor X, Y, Z` (R104). -/
  | xor (x : Reg) (y : Src) (z : Reg)
  /-- `add X, Y, Z` (R105). -/
  | add (x : Reg) (y : Src) (z : Reg)
  /-- `sub X, Y, Z` (R106). -/
  | sub (x : Reg) (y : Src) (z : Reg)
  /-- `addc X, Y, Z` (R107). -/
  | addc (x : Reg) (y : Src) (z : Reg)
  /-- `subc X, Y, Z` (R108). -/
  | subc (x : Reg) (y : Src) (z : Reg)
  /-- `mullo X, Y, Z` (R109). -/
  | mullo (x : Reg) (y : Src) (z : Reg)
  /-- `mulhi X, Y, Z` (R110). -/
  | mulhi (x : Reg) (y : Src) (z : Reg)
  /-- `mulslo X, Y, Z` (R111). -/
  | mulslo (x : Reg) (y : Src) (z : Reg)
  /-- `mulshi X, Y, Z` (R112). -/
  | mulshi (x : Reg) (y : Src) (z : Reg)
  /-- `div X, Y, Z` (R114). -/
  | div (x : Reg) (y : Src) (z : Reg)
  /-- `divs X, Y, Z` (R115). -/
  | divs (x : Reg) (y : Src) (z : Reg)
  /-- `mod X, Y, Z` (R116). -/
  | mod (x : Reg) (y : Src) (z : Reg)
  /-- `mods X, Y, Z` (R117). -/
  | mods (x : Reg) (y : Src) (z : Reg)

  -- INT2: two-operand integer
  /-- `ld X, Y` (R122). -/
  | ld (x y : Reg)
  /-- `st X, Y` (R123). -/
  | st (x y : Reg)
  /-- `cp X, Y` (R124). -/
  | cp (x y : Reg)
  /-- `cmp X, Y` (R125). -/
  | cmp (x y : Reg)
  /-- `bit X, Y` (R126). -/
  | bit (x y : Reg)
  /-- `asl X, Y` (R128). -/
  | asl (x : Reg) (y : Count)
  /-- `asr X, Y` (R129). -/
  | asr (x : Reg) (y : Count)
  /-- `shl X, Y` (R130). -/
  | shl (x : Reg) (y : Count)
  /-- `shr X, Y` (R131). -/
  | shr (x : Reg) (y : Count)
  /-- `rol X, Y` (R132). -/
  | rol (x : Reg) (y : Count)
  /-- `ror X, Y` (R133). -/
  | ror (x : Reg) (y : Count)

  -- INT1: one-operand integer and control
  /-- `push X` (R141). -/
  | push (x : Reg)
  /-- `pop X` (R142). -/
  | pop (x : Reg)
  /-- `nor X` (R143). -/
  | nor (x : Reg)
  /-- `neg X` (R144). -/
  | neg (x : Reg)
  /-- `clr X` (R145). -/
  | clr (x : Reg)
  /-- `set X` (R146). -/
  | set (x : Reg)
  /-- `inc X` (R147). -/
  | inc (x : Reg)
  /-- `dec X` (R148). -/
  | dec (x : Reg)
  /-- `beq X` (R151). -/
  | beq (x : Target)
  /-- `bne X` (R152). -/
  | bne (x : Target)
  /-- `bgt X` (R153). -/
  | bgt (x : Target)
  /-- `blt X` (R154). -/
  | blt (x : Target)
  /-- `bge X` (R155). -/
  | bge (x : Target)
  /-- `bpl X` (R156). -/
  | bpl (x : Target)
  /-- `bmi X` (R157). -/
  | bmi (x : Target)
  /-- `bvc X` (R158). -/
  | bvc (x : Target)
  /-- `bvs X` (R159). -/
  | bvs (x : Target)
  /-- `bcc X` (R160). -/
  | bcc (x : Target)
  /-- `bcs X` (R161). -/
  | bcs (x : Target)
  /-- `bfeq X` (R162). -/
  | bfeq (x : Target)
  /-- `bfne X` (R163). -/
  | bfne (x : Target)
  /-- `bfgt X` (R164). -/
  | bfgt (x : Target)
  /-- `bflt X` (R165). -/
  | bflt (x : Target)
  /-- `bfge X` (R166). -/
  | bfge (x : Target)
  /-- `bfpl X` (R167). -/
  | bfpl (x : Target)
  /-- `bfmi X` (R168). -/
  | bfmi (x : Target)
  /-- `bfinf X` (R169). -/
  | bfinf (x : Target)
  /-- `bfninf X` (R170). -/
  | bfninf (x : Target)
  /-- `bfnnf X` (R171). -/
  | bfnnf (x : Target)
  /-- `bfnnnf X` (R172). -/
  | bfnnnf (x : Target)
  /-- `bfnan X` (R173). -/
  | bfnan (x : Target)
  /-- `bfnnan X` (R174). -/
  | bfnnan (x : Target)
  /-- `bfdn X` (R175). -/
  | bfdn (x : Target)
  /-- `bfndn X` (R176). -/
  | bfndn (x : Target)
  /-- `jmp X` (R179). -/
  | jmp (x : Target)
  /-- `call X` (R180). -/
  | call (x : Target)

  -- FP3: three-operand floating point
  /-- `fadd F, G, H` (R194). -/
  | fadd (f g h : FReg)
  /-- `fsub F, G, H` (R195). -/
  | fsub (f g h : FReg)
  /-- `fmul F, G, H` (R196). -/
  | fmul (f g h : FReg)
  /-- `fdiv F, G, H` (R197). -/
  | fdiv (f g h : FReg)
  /-- `fatan F, G, H` (R198). -/
  | fatan (f g h : FReg)

  -- FP2: two-operand floating point and mixed
  /-- `ld X, G` (R206). -/
  | fld (x : Reg) (g : FReg)
  /-- `st X, G` (R207). -/
  | fst (x : Reg) (g : FReg)
  /-- `cp F, G` (R208). -/
  | fcp (f g : FReg)
  /-- `fitof X, G` (R209). -/
  | fitof (x : Reg) (g : FReg)
  /-- `fftoi F, Y` (R210). -/
  | fftoi (f : FReg) (y : Reg)
  /-- `fsqrt F, G` (R211). -/
  | fsqrt (f g : FReg)
  /-- `fsin F, G` (R212). -/
  | fsin (f g : FReg)
  /-- `fcos F, G` (R213). -/
  | fcos (f g : FReg)
  /-- `flog F, G` (R214). -/
  | flog (f g : FReg)
  /-- `fexp F, G` (R215). -/
  | fexp (f g : FReg)
  /-- `fcmp F, G` (R216). -/
  | fcmp (f g : FReg)

  -- FP1: one-operand floating point
  /-- `clr F` (R230). -/
  | fclr (f : FReg)
  /-- `push F` (R226). -/
  | fpush (f : FReg)
  /-- `pop F` (R227). -/
  | fpop (f : FReg)
  /-- `fneg F` (R228). -/
  | fneg (f : FReg)
  /-- `fabs F` (R229). -/
  | fabs (f : FReg)
  /-- `fpi F` (R231). -/
  | fpi (f : FReg)
  /-- `fe F` (R232). -/
  | fe (f : FReg)

  -- ZERO: zero-operand
  /-- `nop` (R246). -/
  | nop
  /-- `pushs` (R247). -/
  | pushs
  /-- `pops` (R248). -/
  | pops
  /-- `clrz` (R249). -/
  | clrz
  /-- `clrn` (R250). -/
  | clrn
  /-- `clrc` (R251). -/
  | clrc
  /-- `clrv` (R252). -/
  | clrv
  /-- `setz` (R253). -/
  | setz
  /-- `setn` (R254). -/
  | setn
  /-- `setc` (R255). -/
  | setc
  /-- `setv` (R256). -/
  | setv
  /-- `jsr` (R260). -/
  | jsr
  /-- `rts` (R261). -/
  | rts
  /-- `ret` (R262). -/
  | ret
  /-- `rti` (R263). -/
  | rti
  /-- `int N` (R264). -/
  | int (n : Nat)
  /-- `stop` (R265). -/
  | stop
  /-- `pushu` (R266). -/
  | pushu
  /-- `popu` (R267). -/
  | popu
  /-- `user` (R268). -/
  | user

  -- SIMD: the SIMD space
  /-- `nop` (R240). -/
  | simdNop
  deriving DecidableEq, Repr

end Sys2Proof
end

