-- ==== Sys2Proof/WellFormed.lean ====
section
/-! DEFINITION. Which instructions the encodings can hold: register numbers are typed, so what is left to check is that
a literal lies in the range its field has (R73, R75, R77, R82). -/

namespace Sys2Proof

/-- R73: the literal of a three-operand integer instruction is a 16-bit two's-complement number. -/
def Src.wellFormed : Src → Bool
  | .reg _ => true
  | .lit v => decide (-2 ^ 15 ≤ v ∧ v < 2 ^ 15)

/-- R75: the literal count of a shift or rotation is 0..31. -/
def Count.wellFormed : Count → Bool
  | .reg _ => true
  | .lit n => decide (n < 32)

/-- R77 (and C3): the literal of a branch, `jmp` or `call` is a 22-bit two's-complement number. -/
def Target.wellFormed : Target → Bool
  | .reg _ => true
  | .rel v => decide (-2 ^ 21 ≤ v ∧ v < 2 ^ 21)

/-- The instruction has an encoding: every literal in it fits its field. -/
def Instr.wellFormed : Instr → Bool
  | .and _ y _ => y.wellFormed
  | .or _ y _ => y.wellFormed
  | .xor _ y _ => y.wellFormed
  | .add _ y _ => y.wellFormed
  | .sub _ y _ => y.wellFormed
  | .addc _ y _ => y.wellFormed
  | .subc _ y _ => y.wellFormed
  | .mullo _ y _ => y.wellFormed
  | .mulhi _ y _ => y.wellFormed
  | .mulslo _ y _ => y.wellFormed
  | .mulshi _ y _ => y.wellFormed
  | .div _ y _ => y.wellFormed
  | .divs _ y _ => y.wellFormed
  | .mod _ y _ => y.wellFormed
  | .mods _ y _ => y.wellFormed
  | .ld _ _ => true
  | .st _ _ => true
  | .cp _ _ => true
  | .cmp _ _ => true
  | .bit _ _ => true
  | .asl _ y => y.wellFormed
  | .asr _ y => y.wellFormed
  | .shl _ y => y.wellFormed
  | .shr _ y => y.wellFormed
  | .rol _ y => y.wellFormed
  | .ror _ y => y.wellFormed
  | .push _ => true
  | .pop _ => true
  | .nor _ => true
  | .neg _ => true
  | .clr _ => true
  | .set _ => true
  | .inc _ => true
  | .dec _ => true
  | .beq x => x.wellFormed
  | .bne x => x.wellFormed
  | .bgt x => x.wellFormed
  | .blt x => x.wellFormed
  | .bge x => x.wellFormed
  | .bpl x => x.wellFormed
  | .bmi x => x.wellFormed
  | .bvc x => x.wellFormed
  | .bvs x => x.wellFormed
  | .bcc x => x.wellFormed
  | .bcs x => x.wellFormed
  | .bfeq x => x.wellFormed
  | .bfne x => x.wellFormed
  | .bfgt x => x.wellFormed
  | .bflt x => x.wellFormed
  | .bfge x => x.wellFormed
  | .bfpl x => x.wellFormed
  | .bfmi x => x.wellFormed
  | .bfinf x => x.wellFormed
  | .bfninf x => x.wellFormed
  | .bfnnf x => x.wellFormed
  | .bfnnnf x => x.wellFormed
  | .bfnan x => x.wellFormed
  | .bfnnan x => x.wellFormed
  | .bfdn x => x.wellFormed
  | .bfndn x => x.wellFormed
  | .jmp x => x.wellFormed
  | .call x => x.wellFormed
  | .fadd _ _ _ => true
  | .fsub _ _ _ => true
  | .fmul _ _ _ => true
  | .fdiv _ _ _ => true
  | .fatan _ _ _ => true
  | .fld _ _ => true
  | .fst _ _ => true
  | .fcp _ _ => true
  | .fitof _ _ => true
  | .fftoi _ _ => true
  | .fsqrt _ _ => true
  | .fsin _ _ => true
  | .fcos _ _ => true
  | .flog _ _ => true
  | .fexp _ _ => true
  | .fcmp _ _ => true
  | .fclr _ => true
  | .fpush _ => true
  | .fpop _ => true
  | .fneg _ => true
  | .fabs _ => true
  | .fpi _ => true
  | .fe _ => true
  | .nop => true
  | .pushs => true
  | .pops => true
  | .clrz => true
  | .clrn => true
  | .clrc => true
  | .clrv => true
  | .setz => true
  | .setn => true
  | .setc => true
  | .setv => true
  | .jsr => true
  | .rts => true
  | .ret => true
  | .rti => true
  | .int n => decide (n < 256)
  | .stop => true
  | .pushu => true
  | .popu => true
  | .user => true
  | .simdNop => true

end Sys2Proof
end

