-- ==== Sys2Proof/Decode.lean ====
section
/-! DEFINITION. Decoding and encoding, from the formats of spec/30_encoding.md. -/

namespace Sys2Proof

/-- Why a word is no instruction of the ZNX5. -/
inductive DecodeError where
  /-- An unassigned op value, an unassigned prefix, or a SIMD-space op other than 0 (R92, R241). -/
  | reservedEncoding
  /-- Literal mode on an operation the source gives none (R93). -/
  | reservedOperandForm
  deriving DecidableEq, Repr

/-- `w[hi:lo]` of R10: the unsigned value of bits `hi` down to `lo`. -/
def bits (w : Word) (hi lo : Nat) : Nat := w.toNat / 2 ^ lo % 2 ^ (hi + 1 - lo)

/-- `sext_n` of R11 as an integer: the two's-complement reading of the `n`-bit value `k`. -/
def signedOf (n k : Nat) : Int := if k < 2 ^ (n - 1) then (k : Int) else (k : Int) - 2 ^ n

/-- The `n`-bit two's-complement field that holds `v`. -/
def fieldOf (n : Nat) (v : Int) : Nat := (v % 2 ^ n).toNat

/-- The integer register that the number `k` of a 5-bit field names (R21, D4). -/
def regOf (k : Nat) : Reg := Fin.ofNat 32 k - Config.i0Number

/-- The number of an integer register in a 5-bit field (R21, D4). -/
def regNumber (r : Reg) : Nat := (r + Config.i0Number).val

/-- A 4-bit floating-point register field (R35). -/
def fregOf (k : Nat) : FReg := Fin.ofNat 16 k

/-! ## Operand fields -/

/-- Operand Y of an INT3 word (R72, R73). -/
def int3Y (w : Word) : Src :=
  if bits w 21 21 = 0 then .reg (regOf (bits w 9 5)) else .lit (signedOf 16 (bits w 20 5))

/-- Operand Y of a shift or rotation (R74, R75). -/
def int2Count (w : Word) : Count :=
  if bits w 20 20 = 0 then .reg (regOf (bits w 19 15)) else .lit (bits w 19 15)

/-- Operand X of a branch, `jmp` or `call` (R76, R77). -/
def int1Target (w : Word) : Target :=
  if bits w 22 22 = 0 then .reg (regOf (bits w 4 0)) else .rel (signedOf 22 (bits w 21 0))

/-- An INT2 operation that has the register form only (R93, R121). -/
def int2Regs (w : Word) (mk : Reg → Reg → Instr) : Except DecodeError Instr :=
  if bits w 20 20 = 0 then .ok (mk (regOf (bits w 25 21)) (regOf (bits w 19 15))) else .error .reservedOperandForm

/-- An INT1 operation that has the register form only (R93, R140). -/
def int1Reg (w : Word) (mk : Reg → Instr) : Except DecodeError Instr :=
  if bits w 22 22 = 0 then .ok (mk (regOf (bits w 4 0))) else .error .reservedOperandForm

/-! ## Op maps

The instructions of a format stand here by their place in the source's list, from 0; the format's list of op numbers in
Decisions.lean says which op number each place has (D2). -/

/-- The place in the list of the instruction with op number `op`; the length of the list if none has it. -/
def placeOf (ops : List Nat) (op : Nat) : Nat := ops.idxOf op

/-- The op number of the instruction at place `k`. -/
def opNumber (ops : List Nat) (k : Nat) : Nat := ops.getD k k

/-- INT3 (R72, R84). -/
def decodeInt3 (w : Word) : Except DecodeError Instr :=
  let x := regOf (bits w 26 22)
  let y := int3Y w
  let z := regOf (bits w 4 0)
  match placeOf Config.int3Ops (bits w 30 27) with
  | 0 => .ok (.and x y z)
  | 1 => .ok (.or x y z)
  | 2 => .ok (.xor x y z)
  | 3 => .ok (.add x y z)
  | 4 => .ok (.sub x y z)
  | 5 => .ok (.addc x y z)
  | 6 => .ok (.subc x y z)
  | 7 => .ok (.mullo x y z)
  | 8 => .ok (.mulhi x y z)
  | 9 => .ok (.mulslo x y z)
  | 10 => .ok (.mulshi x y z)
  | 11 => .ok (.div x y z)
  | 12 => .ok (.divs x y z)
  | 13 => .ok (.mod x y z)
  | 14 => .ok (.mods x y z)
  | _ => .error .reservedEncoding

/-- INT2 (R74, R85). -/
def decodeInt2 (w : Word) : Except DecodeError Instr :=
  let x := regOf (bits w 25 21)
  let y := int2Count w
  match placeOf Config.int2Ops (bits w 29 26) with
  | 0 => int2Regs w .ld
  | 1 => int2Regs w .st
  | 2 => int2Regs w .cp
  | 3 => int2Regs w .cmp
  | 4 => int2Regs w .bit
  | 5 => .ok (.asl x y)
  | 6 => .ok (.asr x y)
  | 7 => .ok (.shl x y)
  | 8 => .ok (.shr x y)
  | 9 => .ok (.rol x y)
  | 10 => .ok (.ror x y)
  | _ => .error .reservedEncoding

/-- INT1 (R76, R86). -/
def decodeInt1 (w : Word) : Except DecodeError Instr :=
  let x := int1Target w
  match placeOf Config.int1Ops (bits w 28 23) with
  | 0 => int1Reg w .push
  | 1 => int1Reg w .pop
  | 2 => int1Reg w .nor
  | 3 => int1Reg w .neg
  | 4 => int1Reg w .clr
  | 5 => int1Reg w .set
  | 6 => int1Reg w .inc
  | 7 => int1Reg w .dec
  | 8 => .ok (.beq x)
  | 9 => .ok (.bne x)
  | 10 => .ok (.bgt x)
  | 11 => .ok (.blt x)
  | 12 => .ok (.bge x)
  | 13 => .ok (.bpl x)
  | 14 => .ok (.bmi x)
  | 15 => .ok (.bvc x)
  | 16 => .ok (.bvs x)
  | 17 => .ok (.bcc x)
  | 18 => .ok (.bcs x)
  | 19 => .ok (.bfeq x)
  | 20 => .ok (.bfne x)
  | 21 => .ok (.bfgt x)
  | 22 => .ok (.bflt x)
  | 23 => .ok (.bfge x)
  | 24 => .ok (.bfpl x)
  | 25 => .ok (.bfmi x)
  | 26 => .ok (.bfinf x)
  | 27 => .ok (.bfninf x)
  | 28 => .ok (.bfnnf x)
  | 29 => .ok (.bfnnnf x)
  | 30 => .ok (.bfnan x)
  | 31 => .ok (.bfnnan x)
  | 32 => .ok (.bfdn x)
  | 33 => .ok (.bfndn x)
  | 34 => .ok (.jmp x)
  | 35 => .ok (.call x)
  | _ => .error .reservedEncoding

/-- FP3 (R78, R87). -/
def decodeFp3 (w : Word) : Except DecodeError Instr :=
  let f := fregOf (bits w 23 20)
  let g := fregOf (bits w 19 16)
  let h := fregOf (bits w 15 12)
  match placeOf Config.fp3Ops (bits w 26 24) with
  | 0 => .ok (.fadd f g h)
  | 1 => .ok (.fsub f g h)
  | 2 => .ok (.fmul f g h)
  | 3 => .ok (.fdiv f g h)
  | 4 => .ok (.fatan f g h)
  | _ => .error .reservedEncoding

/-- FP2 (R79, R88): an integer operand uses all five bits of its field, a floating-point one the low four. -/
def decodeFp2 (w : Word) : Except DecodeError Instr :=
  let x := regOf (bits w 21 17)
  let y := regOf (bits w 16 12)
  let f := fregOf (bits w 20 17)
  let g := fregOf (bits w 15 12)
  match placeOf Config.fp2Ops (bits w 25 22) with
  | 0 => .ok (.fld x g)
  | 1 => .ok (.fst x g)
  | 2 => .ok (.fcp f g)
  | 3 => .ok (.fitof x g)
  | 4 => .ok (.fftoi f y)
  | 5 => .ok (.fsqrt f g)
  | 6 => .ok (.fsin f g)
  | 7 => .ok (.fcos f g)
  | 8 => .ok (.flog f g)
  | 9 => .ok (.fexp f g)
  | 10 => .ok (.fcmp f g)
  | _ => .error .reservedEncoding

/-- The operations of FP1, named apart from their numbers. -/
inductive Fp1Op where
  | clr | push | pop | neg | abs | pi | e
  deriving DecidableEq, Repr

/-- The FP1 op map, kept as a table as R89 asks (C5, D3): only `clr` = 0 is printed in the source. -/
def fp1Map : List (Nat × Fp1Op) := [(0, .clr), (1, .push), (2, .pop), (3, .neg), (4, .abs), (5, .pi), (6, .e)]

/-- The instruction an FP1 operation is. -/
def fp1Instr (f : FReg) : Fp1Op → Instr
  | .clr => .fclr f
  | .push => .fpush f
  | .pop => .fpop f
  | .neg => .fneg f
  | .abs => .fabs f
  | .pi => .fpi f
  | .e => .fe f

/-- The number `fp1Map` gives an operation; 7, the unassigned number, if it gives none. -/
def fp1Number (o : Fp1Op) : Nat := ((fp1Map.find? fun p => p.2 = o).map (·.1)).getD 7

/-- FP1 (R80, R89). -/
def decodeFp1 (w : Word) : Except DecodeError Instr :=
  match fp1Map.lookup (bits w 24 22) with
  | some o => .ok (fp1Instr (fregOf (bits w 21 18)) o)
  | none => .error .reservedEncoding

/-- ZERO (R82, R90); the field `n` is ignored but for `int` (R91). -/
def decodeZero (w : Word) : Except DecodeError Instr :=
  match placeOf Config.zeroOps (bits w 27 23) with
  | 0 => .ok .nop
  | 1 => .ok .pushs
  | 2 => .ok .pops
  | 3 => .ok .clrz
  | 4 => .ok .clrn
  | 5 => .ok .clrc
  | 6 => .ok .clrv
  | 7 => .ok .setz
  | 8 => .ok .setn
  | 9 => .ok .setc
  | 10 => .ok .setv
  | 11 => .ok .jsr
  | 12 => .ok .rts
  | 13 => .ok .ret
  | 14 => .ok .rti
  | 15 => .ok (.int (bits w 22 15))
  | 16 => .ok .stop
  | 17 => .ok .pushu
  | 18 => .ok .popu
  | 19 => .ok .user
  | _ => .error .reservedEncoding

/-- The SIMD space (R81, R240, R241). -/
def decodeSimd (w : Word) : Except DecodeError Instr :=
  if bits w 22 0 = 0 then .ok .simdNop else .error .reservedEncoding

/-- A word with diagram position 1 as bit 31, from a word as the machine holds it, and back (R10, R70, D1). -/
def inDiagramOrder (w : Word) : Word := if Config.positionOneIsMsb then w else w.reverse

/-- The instruction that a word in diagram order is, or why it is none: the leading bits choose the format (R71). -/
def decodeDiagram (w : Word) : Except DecodeError Instr :=
  if bits w 31 31 = 1 then decodeInt3 w
  else if bits w 31 30 = 1 then decodeInt2 w
  else if bits w 31 29 = 1 then decodeInt1 w
  else if bits w 31 28 = 0 then decodeZero w
  else if bits w 31 27 = 3 then decodeFp3 w
  else if bits w 31 26 = 5 then decodeFp2 w
  else if bits w 31 25 = 9 then decodeFp1 w
  else if bits w 31 23 = 34 then decodeSimd w
  else .error .reservedEncoding

/-- The instruction a word is, or why it is none. -/
def decode (w : Word) : Except DecodeError Instr := decodeDiagram (inDiagramOrder w)

/-! ## Encoding -/

/-- The mode bit and operand bits 20:5 of INT3, as one 17-bit field at bit 5 (R72). -/
def srcField : Src → Nat
  | .reg r => regNumber r
  | .lit v => 2 ^ 16 + fieldOf 16 v

/-- The mode bit and operand bits 19:15 of INT2, as one 6-bit field at bit 15 (R74). -/
def countField : Count → Nat
  | .reg r => regNumber r
  | .lit n => 2 ^ 5 + n

/-- The mode bit and operand bits 21:0 of INT1, as one 23-bit field (R76). -/
def targetField : Target → Nat
  | .reg r => regNumber r
  | .rel v => 2 ^ 22 + fieldOf 22 v

/-- The word formula of R84, of the instruction at place `k`; so for the other formats. -/
def encInt3 (k : Nat) (x : Reg) (y : Src) (z : Reg) : Word :=
  BitVec.ofNat 32
    (0x80000000 + opNumber Config.int3Ops k * 2 ^ 27 + regNumber x * 2 ^ 22 + srcField y * 2 ^ 5 + regNumber z)

/-- The word formula of R85. -/
def encInt2 (k : Nat) (x : Reg) (y : Count) : Word :=
  BitVec.ofNat 32 (0x40000000 + opNumber Config.int2Ops k * 2 ^ 26 + regNumber x * 2 ^ 21 + countField y * 2 ^ 15)

/-- The word formula of R86. -/
def encInt1 (k : Nat) (x : Target) : Word :=
  BitVec.ofNat 32 (0x20000000 + opNumber Config.int1Ops k * 2 ^ 23 + targetField x)

/-- The word formula of R87. -/
def encFp3 (k : Nat) (f g h : FReg) : Word :=
  BitVec.ofNat 32 (0x18000000 + opNumber Config.fp3Ops k * 2 ^ 24 + f.val * 2 ^ 20 + g.val * 2 ^ 16 + h.val * 2 ^ 12)

/-- The word formula of R88, with the two operands' numbers. -/
def encFp2 (k a b : Nat) : Word :=
  BitVec.ofNat 32 (0x14000000 + opNumber Config.fp2Ops k * 2 ^ 22 + a * 2 ^ 17 + b * 2 ^ 12)

/-- The word formula of R89. -/
def encFp1 (o : Fp1Op) (f : FReg) : Word := BitVec.ofNat 32 (0x12000000 + fp1Number o * 2 ^ 22 + f.val * 2 ^ 18)

/-- The word formula of R90. -/
def encZero (k n : Nat) : Word := BitVec.ofNat 32 (opNumber Config.zeroOps k * 2 ^ 23 + n * 2 ^ 15)

/-- The word of a well-formed instruction in diagram order, every ignored bit 0 (R91). -/
def encodeDiagram : Instr → Word
  | .and x y z => encInt3 0 x y z
  | .or x y z => encInt3 1 x y z
  | .xor x y z => encInt3 2 x y z
  | .add x y z => encInt3 3 x y z
  | .sub x y z => encInt3 4 x y z
  | .addc x y z => encInt3 5 x y z
  | .subc x y z => encInt3 6 x y z
  | .mullo x y z => encInt3 7 x y z
  | .mulhi x y z => encInt3 8 x y z
  | .mulslo x y z => encInt3 9 x y z
  | .mulshi x y z => encInt3 10 x y z
  | .div x y z => encInt3 11 x y z
  | .divs x y z => encInt3 12 x y z
  | .mod x y z => encInt3 13 x y z
  | .mods x y z => encInt3 14 x y z
  | .ld x y => encInt2 0 x (.reg y)
  | .st x y => encInt2 1 x (.reg y)
  | .cp x y => encInt2 2 x (.reg y)
  | .cmp x y => encInt2 3 x (.reg y)
  | .bit x y => encInt2 4 x (.reg y)
  | .asl x y => encInt2 5 x y
  | .asr x y => encInt2 6 x y
  | .shl x y => encInt2 7 x y
  | .shr x y => encInt2 8 x y
  | .rol x y => encInt2 9 x y
  | .ror x y => encInt2 10 x y
  | .push x => encInt1 0 (.reg x)
  | .pop x => encInt1 1 (.reg x)
  | .nor x => encInt1 2 (.reg x)
  | .neg x => encInt1 3 (.reg x)
  | .clr x => encInt1 4 (.reg x)
  | .set x => encInt1 5 (.reg x)
  | .inc x => encInt1 6 (.reg x)
  | .dec x => encInt1 7 (.reg x)
  | .beq x => encInt1 8 x
  | .bne x => encInt1 9 x
  | .bgt x => encInt1 10 x
  | .blt x => encInt1 11 x
  | .bge x => encInt1 12 x
  | .bpl x => encInt1 13 x
  | .bmi x => encInt1 14 x
  | .bvc x => encInt1 15 x
  | .bvs x => encInt1 16 x
  | .bcc x => encInt1 17 x
  | .bcs x => encInt1 18 x
  | .bfeq x => encInt1 19 x
  | .bfne x => encInt1 20 x
  | .bfgt x => encInt1 21 x
  | .bflt x => encInt1 22 x
  | .bfge x => encInt1 23 x
  | .bfpl x => encInt1 24 x
  | .bfmi x => encInt1 25 x
  | .bfinf x => encInt1 26 x
  | .bfninf x => encInt1 27 x
  | .bfnnf x => encInt1 28 x
  | .bfnnnf x => encInt1 29 x
  | .bfnan x => encInt1 30 x
  | .bfnnan x => encInt1 31 x
  | .bfdn x => encInt1 32 x
  | .bfndn x => encInt1 33 x
  | .jmp x => encInt1 34 x
  | .call x => encInt1 35 x
  | .fadd f g h => encFp3 0 f g h
  | .fsub f g h => encFp3 1 f g h
  | .fmul f g h => encFp3 2 f g h
  | .fdiv f g h => encFp3 3 f g h
  | .fatan f g h => encFp3 4 f g h
  | .fld x g => encFp2 0 (regNumber x) g.val
  | .fst x g => encFp2 1 (regNumber x) g.val
  | .fcp f g => encFp2 2 f.val g.val
  | .fitof x g => encFp2 3 (regNumber x) g.val
  | .fftoi f y => encFp2 4 f.val (regNumber y)
  | .fsqrt f g => encFp2 5 f.val g.val
  | .fsin f g => encFp2 6 f.val g.val
  | .fcos f g => encFp2 7 f.val g.val
  | .flog f g => encFp2 8 f.val g.val
  | .fexp f g => encFp2 9 f.val g.val
  | .fcmp f g => encFp2 10 f.val g.val
  | .fclr f => encFp1 .clr f
  | .fpush f => encFp1 .push f
  | .fpop f => encFp1 .pop f
  | .fneg f => encFp1 .neg f
  | .fabs f => encFp1 .abs f
  | .fpi f => encFp1 .pi f
  | .fe f => encFp1 .e f
  | .nop => encZero 0 0
  | .pushs => encZero 1 0
  | .pops => encZero 2 0
  | .clrz => encZero 3 0
  | .clrn => encZero 4 0
  | .clrc => encZero 5 0
  | .clrv => encZero 6 0
  | .setz => encZero 7 0
  | .setn => encZero 8 0
  | .setc => encZero 9 0
  | .setv => encZero 10 0
  | .jsr => encZero 11 0
  | .rts => encZero 12 0
  | .ret => encZero 13 0
  | .rti => encZero 14 0
  | .int n => encZero 15 n
  | .stop => encZero 16 0
  | .pushu => encZero 17 0
  | .popu => encZero 18 0
  | .user => encZero 19 0
  | .simdNop => 0x11000000

/-- The word of a well-formed instruction. -/
def encode (i : Instr) : Word := inDiagramOrder (encodeDiagram i)

/-! ## The host's question -/

/-- The instruction the decoder reads from a table row's word. An instruction is one 32-bit word (R70), so the word is
given to the decoder as it stands; bits above `nbits` are 0. -/
def decodeTableWord (nbits w : Nat) : Option Instr :=
  match decode (BitVec.ofNat 32 (w % 2 ^ nbits)) with
  | .ok i => some i
  | .error _ => none

end Sys2Proof
end

