-- ==== Sys2Proof/Machine/Ops.lean ====
section
/-! DEFINITION. The named operations over memory, registers, stacks, status registers and the interrupt buffer, which
every meaning is written with (R12), with taking an interrupt and returning from one. -/

namespace Sys2Proof.Machine

/-- What a read, a write or an instruction gives: a value, or the reason the machine stops. -/
abbrev Result (α : Type) := Host.Outcome α Fault Refusal

/-- Go on with the value of `r`, or stop as `r` stops. -/
def andThen {α β : Type} (r : Result α) (k : α → Result β) : Result β :=
  match r with
  | .next a => k a
  | .fault e => .fault e
  | .refused e => .refused e

/-! ## Memory as plain data -/

/-- The byte held at key `k`, if one is listed. -/
def Memory.readByte : Memory → Nat → Option Byte
  | [], _ => none
  | (j, b) :: rest, k => if j = k then some b else Memory.readByte rest k

/-- Put byte `b` at key `k`, keeping the keys rising. -/
def Memory.writeByte : Memory → Nat → Byte → Memory
  | [], k, b => [(k, b)]
  | (j, c) :: rest, k, b =>
    if k < j then (k, b) :: (j, c) :: rest
    else if k = j then (k, b) :: rest
    else (j, c) :: Memory.writeByte rest k b

/-- The canonical form: keys strictly rise, and none lies beyond the 2^32 words of the address space (R7, R50). -/
def Memory.wf (m : Memory) : Bool :=
  decide (m.Pairwise fun a b => a.1 < b.1) && m.all fun c => decide (c.1 < 4 * 2 ^ 32)

/-- The key of byte `k` (0 the most significant) of the word at address `a` (log entry 5). -/
def byteKey (a : Word) (k : Nat) : Nat := 4 * a.toNat + k

/-- Byte `k` of a word, 0 the most significant. -/
def byteOf (v : Word) (k : Nat) : Byte := v.extractLsb' (8 * (3 - k)) 8

/-- The word at address `a`, if it has been written (R50). -/
def Memory.readWord (m : Memory) (a : Word) : Option Word :=
  match m.readByte (byteKey a 0), m.readByte (byteKey a 1), m.readByte (byteKey a 2), m.readByte (byteKey a 3) with
  | some b0, some b1, some b2, some b3 => some (b0 ++ b1 ++ b2 ++ b3)
  | _, _, _, _ => none

/-- Replace the word at address `a` (R50). -/
def Memory.writeWord (m : Memory) (a v : Word) : Memory :=
  (((m.writeByte (byteKey a 0) (byteOf v 0)).writeByte (byteKey a 1) (byteOf v 1)).writeByte (byteKey a 2)
    (byteOf v 2)).writeByte (byteKey a 3) (byteOf v 3)

/-- What `MEMMAP` says of a word address; `none` is absent (R59). -/
def kindAt (map : List Region) (a : Word) : Option RegionKind :=
  (map.find? fun r => decide (r.base ≤ a.toNat) && decide (a.toNat < r.base + r.size)).map Region.kind

/-! ## Registers -/

/-- The bank of integer registers in use (R23). -/
def State.bank (s : State) : Vector Word 31 :=
  match s.mode with
  | .user => s.xu
  | .supervisor => s.xs

/-- What `%pc` holds, as an instruction reads it (R27, D5). -/
def State.pcValue (s : State) : Word := Config.pcDuring s.pc

/-- `x[i]` (R24): register 31 is `%pc`, the others are the current mode's. -/
def State.readReg (s : State) (i : Reg) : Word := if h : i.val < 31 then s.bank[i.val] else s.pcValue

/-- `x[i] <- v` (R25): a write to register 31 is a jump. -/
def State.writeReg (s : State) (i : Reg) (v : Word) : State :=
  if i = pcReg then { s with pc := v }
  else
    match s.mode with
    | .user => { s with xu := s.xu.setIfInBounds i.val v }
    | .supervisor => { s with xs := s.xs.setIfInBounds i.val v }

/-- The set of floating-point registers that a mode uses: the last for the supervisor, which with one set is the user's
(R35, D22). -/
def floatBank : Mode → Nat
  | .user => 0
  | .supervisor => Config.floatBanks - 1

/-- Where `f[j]` stands among the registers of all sets. -/
def floatIndex (md : Mode) (j : FReg) : Nat := 16 * floatBank md + j.val

theorem floatIndex_lt (md : Mode) (j : FReg) : floatIndex md j < 16 * Config.floatBanks := by
  have := j.isLt
  cases md <;> simp only [floatIndex, floatBank, Config.floatBanks] <;> omega

/-- `f[j]` (R12, R35). -/
def State.readF (s : State) (j : FReg) : Word64 := s.f[floatIndex s.mode j]'(floatIndex_lt s.mode j)

/-- `f[j] <- d` (R12, R35). -/
def State.writeF (s : State) (j : FReg) (d : Word64) : State :=
  { s with f := s.f.set (floatIndex s.mode j) d (floatIndex_lt s.mode j) }

/-- `SSP` = `xs[30]` in either mode (R12, R22). -/
def State.ssp (s : State) : Word := s.xs[30]

/-- `SSP <- v`. -/
def State.setSsp (s : State) (v : Word) : State := { s with xs := s.xs.set 30 v }

/-! ## Status registers -/

/-- The flags of the current mode's status register (R31). -/
def State.flags (s : State) : Flags :=
  match s.mode with
  | .user => s.stu
  | .supervisor => s.sts

/-- Replace the flags of mode `md`'s status register. -/
def State.setFlagsOf (s : State) (md : Mode) (fl : Flags) : State :=
  match md with
  | .user => { s with stu := fl }
  | .supervisor => { s with sts := fl }

/-- Replace the flags of the current mode's status register. -/
def State.setFlags (s : State) (fl : Flags) : State := s.setFlagsOf s.mode fl

/-- The S flag, which is the mode (R31). -/
def sFlag : Mode → Bool
  | .user => false
  | .supervisor => true

/-- `StWord` of R32: each flag and S in its bit of the layout (D9); the rest are 0. -/
def stWord (md : Mode) (fl : Flags) : Word :=
  let lay := Config.stLayout
  BitVec.ofNat 32 (2 ^ lay.z * fl.z.toNat + 2 ^ lay.n * fl.n.toNat + 2 ^ lay.v * fl.v.toNat + 2 ^ lay.c * fl.c.toNat
    + 2 ^ lay.fz * fl.fz.toNat + 2 ^ lay.fn * fl.fn.toNat + 2 ^ lay.finf * fl.finf.toNat + 2 ^ lay.fnnf * fl.fnnf.toNat
    + 2 ^ lay.fnan * fl.fnan.toNat + 2 ^ lay.fdn * fl.fdn.toNat + 2 ^ lay.s * (sFlag md).toNat)

/-- The ten flags that `SetSt` of R32 takes from a word, each from its bit of the layout (D9). -/
def flagsOfWord (w : Word) : Flags where
  z := w.getLsbD Config.stLayout.z
  n := w.getLsbD Config.stLayout.n
  v := w.getLsbD Config.stLayout.v
  c := w.getLsbD Config.stLayout.c
  fz := w.getLsbD Config.stLayout.fz
  fn := w.getLsbD Config.stLayout.fn
  finf := w.getLsbD Config.stLayout.finf
  fnnf := w.getLsbD Config.stLayout.fnnf
  fnan := w.getLsbD Config.stLayout.fnan
  fdn := w.getLsbD Config.stLayout.fdn

/-- `StWord(mode)` for the current mode. -/
def State.stWordNow (s : State) : Word := stWord s.mode s.flags

/-! ## Memory accesses -/

/-- `MemRead(a, 1)` (R53) under the translation `tr`: only memory that has been written can be read (R60, R42). -/
def State.readMemBy (tr : Word → Word) (s : State) (a : Word) : Result Word :=
  match kindAt s.memMap (tr a) with
  | none => .fault .absentAddress
  | some .device => .refused .deviceAccess
  | some .memory =>
    match s.mem.readWord (tr a) with
    | some v => .next v
    | none => .fault .unwrittenMemory

/-- `MemWrite(a, 1, v)` (R53) under the translation `tr`, by the instruction whose successor is at `s.pc` (R27): a store
to that address or the one after it is refused (R67). -/
def State.writeMemBy (tr : Word → Word) (s : State) (a v : Word) : Result State :=
  match kindAt s.memMap (tr a) with
  | none => .fault .absentAddress
  | some .device => .refused .deviceAccess
  | some .memory =>
    if a = s.pc ∨ a = s.pc + 1 then .refused .storeIntoNextWords
    else .next { s with mem := s.mem.writeWord (tr a) v, storesLast := a :: s.storesLast }

/-- `MemRead(a, 1)` under the machine's `TRANSLATE` (R53, R62). -/
def State.readMem (s : State) (a : Word) : Result Word := s.readMemBy Config.translate a

/-- `MemWrite(a, 1, v)` under the machine's `TRANSLATE` (R53, R62). -/
def State.writeMem (s : State) (a v : Word) : Result State := s.writeMemBy Config.translate a v

/-- The word of a 64-bit value that lies at the lower address (R55, D21). -/
def firstWord (d : Word64) : Word := if Config.f64HighFirst then hi32 d else lo32 d

/-- The word of a 64-bit value that lies at the higher address (R55, D21). -/
def secondWord (d : Word64) : Word := if Config.f64HighFirst then lo32 d else hi32 d

/-- The 64-bit value of the words at the lower and the higher address (R55, D21). -/
def joinWords (first second : Word) : Word64 := if Config.f64HighFirst then first ++ second else second ++ first

/-- `MemRead(a, 2)` (R55). -/
def State.readMem2 (s : State) (a : Word) : Result Word64 :=
  andThen (s.readMem a) fun first => andThen (s.readMem (a + 1)) fun second => .next (joinWords first second)

/-- `MemWrite(a, 2, d)` (R55). -/
def State.writeMem2 (s : State) (a : Word) (d : Word64) : Result State :=
  andThen (s.writeMem a (firstWord d)) fun s1 => s1.writeMem (a + 1) (secondWord d)

/-! ## Stacks (R57), with the direction and the pointer convention of D7 -/

/-- The stack pointer after an item of `n` words is pushed. -/
def spPushed (sp n : Word) : Word := if Config.stackDescends then sp - n else sp + n

/-- The stack pointer after an item of `n` words is popped. -/
def spPopped (sp n : Word) : Word := if Config.stackDescends then sp + n else sp - n

/-- The address that an item of `n` words is pushed to, from the stack pointer before. -/
def pushAddr (sp n : Word) : Word :=
  match Config.stackDescends, Config.stackFull with
  | true, true => sp - n
  | true, false => sp - n + 1
  | false, true => sp + 1
  | false, false => sp

/-- The address of the item of `n` words on top, from the stack pointer before it is popped. -/
def topAddr (sp n : Word) : Word :=
  match Config.stackDescends, Config.stackFull with
  | true, true => sp
  | true, false => sp + 1
  | false, true => sp - n + 1
  | false, false => sp - n

/-- `Push(v)` on the current mode's stack. -/
def State.push (s : State) (v : Word) : Result State :=
  (s.writeReg spReg (spPushed (s.readReg spReg) 1)).writeMem (pushAddr (s.readReg spReg) 1) v

/-- `Pop()` from the current mode's stack: the value, and the state with the stack pointer moved. -/
def State.pop (s : State) : Result (Word × State) :=
  andThen (s.readMem (topAddr (s.readReg spReg) 1)) fun v =>
    .next (v, s.writeReg spReg (spPopped (s.readReg spReg) 1))

/-- `Push2(d)` on the current mode's stack. -/
def State.push2 (s : State) (d : Word64) : Result State :=
  (s.writeReg spReg (spPushed (s.readReg spReg) 2)).writeMem2 (pushAddr (s.readReg spReg) 2) d

/-- `Pop2()` from the current mode's stack. -/
def State.pop2 (s : State) : Result (Word64 × State) :=
  andThen (s.readMem2 (topAddr (s.readReg spReg) 2)) fun d =>
    .next (d, s.writeReg spReg (spPopped (s.readReg spReg) 2))

/-- `PushS(v)` on the supervisor stack, in either mode. -/
def State.pushS (s : State) (v : Word) : Result State := (s.setSsp (spPushed s.ssp 1)).writeMem (pushAddr s.ssp 1) v

/-- `PopS()` from the supervisor stack, in either mode. -/
def State.popS (s : State) : Result (Word × State) :=
  andThen (s.readMem (topAddr s.ssp 1)) fun v => .next (v, s.setSsp (spPopped s.ssp 1))

/-- `PushS` of each word of a list, the first one first. -/
def State.pushAllS (s : State) : List Word → Result State
  | [] => .next s
  | v :: rest => andThen (s.pushS v) fun s1 => s1.pushAllS rest

/-- `n` times `PopS()`: the words in the order they are popped. -/
def State.popAllS (s : State) : Nat → Result (List Word × State)
  | 0 => .next ([], s)
  | n + 1 => andThen s.popS fun p => andThen (p.2.popAllS n) fun q => .next (p.1 :: q.1, q.2)

/-- Write `vs` to the registers `x[i]`, `x[i-1]`, ... of the current mode, as `ret` does (R262). -/
def State.writeRegsDown (s : State) (i : Reg) : List Word → State
  | [] => s
  | v :: rest => (s.writeReg i v).writeRegsDown (i - 1) rest

/-- Write `vs` to the user registers `xu[i]`, `xu[i-1]`, ..., as `popu` does (R267). -/
def State.writeUserDown (s : State) (i : Nat) : List Word → State
  | [] => s
  | v :: rest => State.writeUserDown { s with xu := s.xu.setIfInBounds i v } (i - 1) rest

/-! ## Unspecified values -/

/-- An unspecified 32-bit value (U5, U6), fresh at each draw. -/
def State.drawWord (s : State) : Word × State := (Config.freeWord s.draws, { s with draws := s.draws + 1 })

/-- A NaN of unspecified sign and payload (R191, U8), fresh at each draw. -/
def State.drawNan (s : State) : Word64 × State :=
  (Config.fpFormat.nanOf (Config.freeNan s.draws), { s with draws := s.draws + 1 })

/-! ## The interrupt buffer and the environment -/

/-- A request joins the entries of the buffer, at the end if the buffer is first in, first out (R283, D29). -/
def joinBuffer (entries : List (BitVec 8)) (n : BitVec 8) : List (BitVec 8) :=
  if Config.bufferFifo then entries ++ [n] else n :: entries

/-- Append a request to the buffer, or drop it if the buffer is full (R37, R283). -/
def State.enqueue (s : State) (n : BitVec 8) : State :=
  if s.ibuf.length < Config.ibufDepth then { s with ibuf := joinBuffer s.ibuf n } else s

/-- Append requests in order (R288). -/
def State.enqueueAll (s : State) : List (BitVec 8) → State
  | [] => s
  | n :: rest => (s.enqueue n).enqueueAll rest

/-- The environment appends what arrives between the previous step and this one (R282). -/
def State.arriveBetween (s : State) : State :=
  match s.extIrq with
  | [] => s
  | a :: _ => s.enqueueAll a.between

/-- The environment appends what arrives while this step runs (R288), and its schedule moves to the next step. -/
def State.arriveDuring (s : State) : State :=
  match s.extIrq with
  | [] => s
  | a :: rest => State.enqueueAll { s with extIrq := rest } a.during

/-- `VEC(n)` (R286): as the platform fixes it, else unknown. -/
def State.vecOf (s : State) (n : BitVec 8) : Word := (s.vectors.lookup n).getD (Config.vec n)

/-- `Deliver(n)` for the first entry `n` of the buffer (R285): the machine's one exception entry. -/
def State.deliver (s : State) (n : BitVec 8) : State :=
  { s with ibuf := s.ibuf.tail, xs := s.xs.set 15 s.pc, mode := .supervisor, pc := s.vecOf n }

/-- The request that `int N` makes (R264, D31). -/
def State.requestInt (s : State) (n : BitVec 8) : State :=
  if Config.intIsBuffered then s.enqueue n else State.deliver { s with ibuf := n :: s.ibuf } n

/-- The return of `rti` and `user` (R263, R268, R289): `pc <- lr`, then the mode becomes user. -/
def State.returnToUser (s : State) : State := { s with pc := s.readReg lrReg, mode := .user }

/-! ## The parts of a step (R40) -/

/-- (1) of R40: the core is stopped and nothing is pending that ends the wait (R38, D32). -/
def State.waits (s : State) : Bool :=
  s.stopped && (s.ibuf.isEmpty || (!Config.stopEndsInSupervisor && sFlag s.mode))

/-- (2) of R40: a stopped core with something pending goes on in the same step. -/
def State.wake (s : State) : State := { s with stopped := false }

/-- (3) of R40: the interrupt to deliver, if one is pending and the mode is user (R284, D29). -/
def State.pendingInterrupt (s : State) : Option (BitVec 8) :=
  match s.mode with
  | .supervisor => if Config.heldInSupervisor then none else s.ibuf.head?
  | .user => s.ibuf.head?

/-- The fetch of (4) of R40 (R54): an address that one of the last two instructions stored to is refused (R67). -/
def State.fetch (s : State) : Result Word :=
  if s.pc ∈ s.storesLast ∨ s.pc ∈ s.storesPrev then .refused .staleFetch else s.readMem s.pc

/-- `pc <- A + 1` (R27, R28), and the record of stores moves on by one instruction (R67). -/
def State.advance (s : State) : State :=
  { s with pc := s.pc + 1, storesPrev := s.storesLast, storesLast := [] }

/-- The refusal a word that is no instruction meets (R92, R93). -/
def refusalOf : DecodeError → Refusal
  | .reservedEncoding => .reservedEncoding
  | .reservedOperandForm => .reservedOperandForm

/-- Put the word `w` where the next step fetches, with all that this takes: the address is memory, no store to it is
recent, the core is not stopped, and in user mode nothing is pending or arrives before the step. -/
def State.placeFetchWord (s : State) (w : Word) : State :=
  { s with
    mem := s.mem.writeWord (Config.translate s.pc) w
    memMap := if kindAt s.memMap (Config.translate s.pc) = some .memory then s.memMap
      else ⟨(Config.translate s.pc).toNat, 1, .memory⟩ :: s.memMap
    storesLast := s.storesLast.filter fun a => a != s.pc
    storesPrev := s.storesPrev.filter fun a => a != s.pc
    stopped := false
    ibuf := match s.mode with
      | .user => []
      | .supervisor => s.ibuf
    extIrq := match s.mode, s.extIrq with
      | .user, a :: rest => ⟨[], a.during⟩ :: rest
      | _, l => l }

end Sys2Proof.Machine
end

