-- ==== Sys2Proof/Machine/Operands.lean ====
section
/-! DEFINITION. The values of the operand forms (R73, R75, R77, R127, R150). -/

namespace Sys2Proof.Machine

/-- Operand Y of an INT3 instruction: a register, or the sign-extended literal (R73). -/
def State.srcValue (s : State) : Src → Word
  | .reg r => s.readReg r
  | .lit v => BitVec.ofInt 32 v

/-- The count of a shift or rotation: the low five bits of a register, or the literal (R127). -/
def State.countValue (s : State) : Count → Nat
  | .reg r => Config.shiftCount (s.readReg r)
  | .lit n => n % 32

/-- `Target(X)` of R150: the address in a register, or `%pc` plus the literal, `%pc` being the address after the
instruction (R77). -/
def State.targetAddr (s : State) : Target → Word
  | .reg r => s.readReg r
  | .rel v => s.pcValue + BitVec.ofInt 32 v

end Sys2Proof.Machine
end

