-- ==== Sys2Proof/Machine/Fp3.lean ====
section
/-! DEFINITION. The three-operand floating-point instructions, and the write-back all floating-point results share
(spec/43_fp3.md, R190 to R198). -/

namespace Sys2Proof.Machine

/-- Register `j` receives `d`, which sets all six F flags (R192). -/
def State.putF (s : State) (j : FReg) (d : Word64) : State := (s.writeF j d).setFlags (s.flags.setAllF d)

/-- Register `j` receives a result; where that is a NaN, its sign and payload are drawn (R191, U8). -/
def State.putResult (s : State) (j : FReg) : Option Word64 → State
  | some d => s.putF j d
  | none => s.drawNan.2.putF j s.drawNan.1

/-- R193, for any record `FPNUM` and one of its functions: both sources are read before H is written. -/
def fp3 (num : FpNum) (op : FpNum → Word64 → Word64 → Option Word64) (f g h : FReg) (s : State) : Result State :=
  .next (s.putResult h (op num (s.readF f) (s.readF g)))

/-- `fadd F, G, H` (R194). -/
def execFadd (f g h : FReg) (s : State) : Result State := fp3 Config.fpnum FpNum.add f g h s

/-- `fsub F, G, H` (R195). -/
def execFsub (f g h : FReg) (s : State) : Result State := fp3 Config.fpnum FpNum.sub f g h s

/-- `fmul F, G, H` (R196). -/
def execFmul (f g h : FReg) (s : State) : Result State := fp3 Config.fpnum FpNum.mul f g h s

/-- `fdiv F, G, H` (R197). -/
def execFdiv (f g h : FReg) (s : State) : Result State := fp3 Config.fpnum FpNum.div f g h s

/-- `fatan F, G, H` (R198): an uninterpreted function of the two operands. -/
def execFatan (f g h : FReg) (s : State) : Result State :=
  fp3 Config.fpnum (fun num a b => some (num.atan a b)) f g h s

end Sys2Proof.Machine
end

