-- ==== Sys2Proof/Machine/Fp1.lean ====
section
/-! DEFINITION. The one-operand floating-point instructions (spec/45_fp1.md, R225 to R232). -/

namespace Sys2Proof.Machine

/-- `push F` (R226): two words, the high one at the lower address; no flag changes. -/
def execFpush (f : FReg) (s : State) : Result State := s.push2 (s.readF f)

/-- `pop F` (R227). -/
def execFpop (f : FReg) (s : State) : Result State := andThen s.pop2 fun p => .next (p.2.putF f p.1)

/-- `fneg F` (R228). -/
def execFneg (f : FReg) (s : State) : Result State := .next (s.putF f (Config.fpFormat.neg (s.readF f)))

/-- `fabs F` (R229). -/
def execFabs (f : FReg) (s : State) : Result State := .next (s.putF f (Config.fpFormat.abs (s.readF f)))

/-- `clr F` (R230): only FZ is written. -/
def execFclr (f : FReg) (s : State) : Result State :=
  .next ((s.writeF f Config.fpFormat.zero).setFlags { s.flags with fz := true })

/-- `fpi F` (R231): no flag changes. -/
def execFpi (f : FReg) (s : State) : Result State := .next (s.writeF f Config.piBits)

/-- `fe F` (R232): no flag changes. -/
def execFe (f : FReg) (s : State) : Result State := .next (s.writeF f Config.eBits)

end Sys2Proof.Machine
end

