-- ==== Sys2Proof/Machine/Flags.lean ====
section
/-! DEFINITION. The integer results and the writing of the integer flags (R34, R101, R109 to R117, R127 to R133, R144 to
R148). The flag formulas themselves are fields of Config, in Decisions.lean. -/

namespace Sys2Proof.Machine

/-- A result with the V and C that go with it. -/
structure Alu where
  value : Word
  v : Bool
  c : Bool
  deriving DecidableEq, Repr

/-- Z and N from a result (R34). -/
def Flags.setZN (fl : Flags) (r : Word) : Flags := { fl with z := Config.zFlag r, n := Config.nFlag r }

/-- A result with the pair of V and C that goes with it. -/
def Alu.of (value : Word) (vc : Bool × Bool) : Alu := ⟨value, vc.1, vc.2⟩

/-- Z, N and V. -/
def Flags.setZNV (fl : Flags) (r : Word) (v : Bool) : Flags := { fl.setZN r with v := v }

/-- Z, N, V and C. -/
def Flags.setZNVC (fl : Flags) (o : Alu) : Flags := { fl.setZN o.value with v := o.v, c := o.c }

/-! ## Addition and subtraction (R101) -/

/-- `a + b + c`. -/
def aluAdd (a b : Word) (c : Bool) : Alu where
  value := BitVec.ofNat 32 (a.toNat + b.toNat + c.toNat)
  v := Config.vFlag (a.toInt + b.toInt + c.toNat)
  c := Config.carryFlag (a.toNat + b.toNat + c.toNat)

/-- `a - b - k`. -/
def aluSub (a b : Word) (k : Bool) : Alu where
  value := BitVec.ofInt 32 ((a.toNat : Int) - b.toNat - k.toNat)
  v := Config.vFlag (a.toInt - b.toInt - k.toNat)
  c := Config.noBorrowFlag ((a.toNat : Int) - b.toNat - k.toNat)

/-! ## Multiplication (R109 to R112) -/

/-- The low word of the unsigned product. -/
def mulLow (a b : Word) : Word := BitVec.ofNat 32 (a.toNat * b.toNat)

/-- The high word of the unsigned product. -/
def mulHigh (a b : Word) : Word := BitVec.ofNat 32 (a.toNat * b.toNat / 2 ^ 32)

/-- The low word of the signed product. -/
def mulsLow (a b : Word) : Word := BitVec.ofInt 32 (a.toInt * b.toInt)

/-- The high word of the 64-bit signed product. -/
def mulsHigh (a b : Word) : Word := BitVec.ofNat 32 ((a.toInt * b.toInt % 2 ^ 64).toNat / 2 ^ 32)

/-- What a form without the `s` of "signed" computes, of its unsigned and its signed meaning (D12). -/
def unsuffixed {α : Type} (unsigned signed : α) : α := if Config.unsuffixedUnsigned then unsigned else signed

/-! ## Division (R113 to R117): the result and V -/

/-- Unsigned quotient. -/
def divU (a b : Word) : Word × Bool :=
  if b = 0 then Config.zeroDivisor else (BitVec.ofNat 32 (a.toNat / b.toNat), false)

/-- Signed quotient; the one quotient that does not fit sets V. -/
def divS (a b : Word) : Word × Bool :=
  if b = 0 then Config.zeroDivisor
  else if a = 0x80000000 ∧ b = 0xFFFFFFFF then Config.quotientOverflow
  else (BitVec.ofInt 32 (Config.signedQuotient a.toInt b.toInt), false)

/-- Unsigned remainder. -/
def modU (a b : Word) : Word × Bool :=
  if b = 0 then Config.zeroDivisor else (BitVec.ofNat 32 (a.toNat % b.toNat), false)

/-- Signed remainder; its pair for the one quotient that does not fit stands apart. -/
def modS (a b : Word) : Word × Bool :=
  if b = 0 then Config.zeroDivisor
  else if a = 0x80000000 ∧ b = 0xFFFFFFFF then Config.remainderOverflow
  else (BitVec.ofInt 32 (Config.signedRemainder a.toInt b.toInt), false)

/-! ## Shifts and rotations (R127 to R133), `n` being 0..31 -/

/-- R128; the V that is not the spec's choice says that the number shifted does not fit. -/
def aluAsl (v : Word) (n : Nat) : Alu :=
  if Config.aslIsShl then .of (v <<< n) (Config.leftFlags v n)
  else .of (v <<< n) (Config.vFlag (v.toInt * 2 ^ n), (Config.leftFlags v n).2)

/-- R129. -/
def aluAsr (v : Word) (n : Nat) : Alu := .of (v.sshiftRight n) (Config.rightFlags v n)

/-- R130. -/
def aluShl (v : Word) (n : Nat) : Alu := .of (v <<< n) (Config.leftFlags v n)

/-- R131. -/
def aluShr (v : Word) (n : Nat) : Alu := .of (v >>> n) (Config.rightFlags v n)

/-- A rotation through C gives the 33 bits `r`, the new C on top. -/
def throughC (r : BitVec 33) (v : Bool) : Alu := ⟨r.extractLsb' 0 32, v, r.msb⟩

/-- R132, `c` being the old C. -/
def aluRol (v : Word) (n : Nat) (c : Bool) : Alu :=
  if Config.rotatesThroughC then throughC ((BitVec.ofBool c ++ v).rotateLeft n) (Config.leftFlags v n).1
  else .of ((v <<< n) ||| (v >>> (32 - n))) (Config.leftFlags v n)

/-- R133, `c` being the old C. -/
def aluRor (v : Word) (n : Nat) (c : Bool) : Alu :=
  if Config.rotatesThroughC then throughC ((BitVec.ofBool c ++ v).rotateRight n) (Config.rightFlags v n).1
  else .of ((v >>> n) ||| (v <<< (32 - n))) (Config.rightFlags v n)

/-! ## One-register arithmetic (R144, R147, R148): the result and V -/

/-- `neg`. -/
def negOut (v : Word) : Word × Bool := (0 - v, Config.negV v)

/-- `inc`. -/
def incOut (v : Word) : Word × Bool := (v + 1, Config.incV v)

/-- `dec`. -/
def decOut (v : Word) : Word × Bool := (v - 1, Config.decV v)

/-! ## Comparison (R125) -/

/-- Whether `cmp a, b` finds `b > a`. -/
def cmpGreater (a b : Word) : Bool :=
  if Config.cmpSigned then decide (a.toInt < b.toInt) else decide (a.toNat < b.toNat)

end Sys2Proof.Machine
end

