-- ==== Sys2Proof/Machine/Fp2.lean ====
section
/-! DEFINITION. The two-operand floating-point and mixed instructions (spec/44_fp2.md, R205 to R216). -/

namespace Sys2Proof.Machine

/-- `ld X, G` (R206): the two words at the address in X go to G and set all six F flags. -/
def execFld (x : Reg) (g : FReg) (s : State) : Result State :=
  andThen (s.readMem2 (s.readReg x)) fun d => .next (s.putF g d)

/-- `st X, G` (R207): G goes to the two words at the address in X and sets all six F flags. -/
def execFst (x : Reg) (g : FReg) (s : State) : Result State :=
  andThen (s.writeMem2 (s.readReg x) (s.readF g)) fun s1 => .next (s1.setFlags (s1.flags.setAllF (s.readF g)))

/-- `cp F, G` (R208): the 64 bits unchanged, setting all six F flags. -/
def execFcp (f g : FReg) (s : State) : Result State := .next (s.putF g (s.readF f))

/-- R209, for any record `FPNUM`: only FZ and FN are written. -/
def intToFloat (num : FpNum) (x : Reg) (g : FReg) (s : State) : Result State :=
  .next ((s.writeF g (num.ofInt (s.readReg x))).setFlags (s.flags.setFitof (s.readReg x)))

/-- `fitof X, G` (R209). -/
def execFitof (x : Reg) (g : FReg) (s : State) : Result State := intToFloat Config.fpnum x g s

/-- R210, for any record `FPNUM`: out of range sets V and leaves an unspecified word, from which Z and N follow (U6). -/
def floatToInt (num : FpNum) (f : FReg) (y : Reg) (s : State) : Result State :=
  match num.toInt (s.readF f) with
  | some r => .next ((s.setFlags (s.flags.setZNV r (Config.fftoiV true))).writeReg y r)
  | none => .next ((s.drawWord.2.setFlags (s.flags.setZNV s.drawWord.1 (Config.fftoiV false))).writeReg y s.drawWord.1)

/-- `fftoi F, Y` (R210). -/
def execFftoi (f : FReg) (y : Reg) (s : State) : Result State := floatToInt Config.fpnum f y s

/-- A one-source operation of any record `FPNUM` whose result goes to G and sets all six F flags (R205). -/
def fp2 (num : FpNum) (op : FpNum → Word64 → Option Word64) (f g : FReg) (s : State) : Result State :=
  .next (s.putResult g (op num (s.readF f)))

/-- `fsqrt F, G` (R211). -/
def execFsqrt (f g : FReg) (s : State) : Result State := fp2 Config.fpnum FpNum.sqrt f g s

/-- `fsin F, G` (R212): an uninterpreted function of the operand. -/
def execFsin (f g : FReg) (s : State) : Result State := fp2 Config.fpnum (fun num a => some (num.sin a)) f g s

/-- `fcos F, G` (R213): an uninterpreted function of the operand. -/
def execFcos (f g : FReg) (s : State) : Result State := fp2 Config.fpnum (fun num a => some (num.cos a)) f g s

/-- `flog F, G` (R214): an uninterpreted function of the operand. -/
def execFlog (f g : FReg) (s : State) : Result State := fp2 Config.fpnum (fun num a => some (num.log2p1 a)) f g s

/-- `fexp F, G` (R215): an uninterpreted function of the operand. -/
def execFexp (f g : FReg) (s : State) : Result State := fp2 Config.fpnum (fun num a => some (num.exp2m1 a)) f g s

/-- `fcmp F, G` (R216): FZ if equal, FN if G > F, FNAN if either is a NaN; the rest stay. -/
def execFcmp (f g : FReg) (s : State) : Result State := .next (s.setFlags (s.flags.setFcmp (s.readF f) (s.readF g)))

end Sys2Proof.Machine
end

