-- ==== Sys2Proof/Machine/Int1.lean ====
section
/-! DEFINITION. The one-operand integer and control instructions (spec/42_int1_control.md, R140 to R180). -/

namespace Sys2Proof.Machine

/-! ## Stack -/

/-- `push X` (R141): the value X had before the stack pointer moved is stored. -/
def execPush (x : Reg) (s : State) : Result State := s.push (s.readReg x)

/-- `pop X` (R142): the write to X comes last; Z and N from the popped word. -/
def execPop (x : Reg) (s : State) : Result State :=
  andThen s.pop fun p => .next ((p.2.setFlags (p.2.flags.setZN p.1)).writeReg x p.1)

/-! ## One-register arithmetic -/

/-- X is replaced by the result, which sets Z, N and V. -/
def replaceZNV (op : Word → Word × Bool) (x : Reg) (s : State) : Result State :=
  let r := op (s.readReg x)
  .next ((s.setFlags (s.flags.setZNV r.1 r.2)).writeReg x r.1)

/-- `nor X` (R143): bitwise complement, setting Z and N. -/
def execNor (x : Reg) (s : State) : Result State :=
  let r := ~~~(s.readReg x)
  .next ((s.setFlags (s.flags.setZN r)).writeReg x r)

/-- `neg X` (R144). -/
def execNeg (x : Reg) (s : State) : Result State := replaceZNV negOut x s

/-- `clr X` (R145): no flag changes. -/
def execClr (x : Reg) (s : State) : Result State := .next (s.writeReg x 0)

/-- `set X` (R146): no flag changes. -/
def execSet (x : Reg) (s : State) : Result State := .next (s.writeReg x 0xFFFFFFFF)

/-- `inc X` (R147). -/
def execInc (x : Reg) (s : State) : Result State := replaceZNV incOut x s

/-- `dec X` (R148). -/
def execDec (x : Reg) (s : State) : Result State := replaceZNV decOut x s

/-! ## Branches -/

/-- R149: if the condition holds of the current mode's flags, go to the target; nothing else changes. -/
def branchIf (cond : Flags → Bool) (x : Target) (s : State) : Result State :=
  .next (if cond s.flags then { s with pc := s.targetAddr x } else s)

/-- `beq X` (R151). -/
def execBeq (x : Target) (s : State) : Result State := branchIf (fun fl => fl.z) x s

/-- `bne X` (R152). -/
def execBne (x : Target) (s : State) : Result State := branchIf (fun fl => !fl.z) x s

/-- `bgt X` (R153). -/
def execBgt (x : Target) (s : State) : Result State := branchIf (fun fl => !fl.z && fl.n) x s

/-- `blt X` (R154). -/
def execBlt (x : Target) (s : State) : Result State := branchIf (fun fl => !fl.z && !fl.n) x s

/-- `bge X` (R155). -/
def execBge (x : Target) (s : State) : Result State := branchIf (fun fl => fl.z || fl.n) x s

/-- `bpl X` (R156). -/
def execBpl (x : Target) (s : State) : Result State := branchIf (fun fl => !fl.n) x s

/-- `bmi X` (R157). -/
def execBmi (x : Target) (s : State) : Result State := branchIf (fun fl => fl.n) x s

/-- `bvc X` (R158). -/
def execBvc (x : Target) (s : State) : Result State := branchIf (fun fl => !fl.v) x s

/-- `bvs X` (R159). -/
def execBvs (x : Target) (s : State) : Result State := branchIf (fun fl => fl.v) x s

/-- `bcc X` (R160). -/
def execBcc (x : Target) (s : State) : Result State := branchIf (fun fl => !fl.c) x s

/-- `bcs X` (R161). -/
def execBcs (x : Target) (s : State) : Result State := branchIf (fun fl => fl.c) x s

/-- `bfeq X` (R162). -/
def execBfeq (x : Target) (s : State) : Result State := branchIf (fun fl => fl.fz) x s

/-- `bfne X` (R163). -/
def execBfne (x : Target) (s : State) : Result State := branchIf (fun fl => !fl.fz) x s

/-- `bfgt X` (R164). -/
def execBfgt (x : Target) (s : State) : Result State := branchIf (fun fl => !fl.fz && fl.fn) x s

/-- `bflt X` (R165). -/
def execBflt (x : Target) (s : State) : Result State := branchIf (fun fl => !fl.fz && !fl.fn) x s

/-- `bfge X` (R166). -/
def execBfge (x : Target) (s : State) : Result State := branchIf (fun fl => fl.fz || fl.fn) x s

/-- `bfpl X` (R167). -/
def execBfpl (x : Target) (s : State) : Result State := branchIf (fun fl => !fl.fn) x s

/-- `bfmi X` (R168). -/
def execBfmi (x : Target) (s : State) : Result State := branchIf (fun fl => fl.fn) x s

/-- `bfinf X` (R169). -/
def execBfinf (x : Target) (s : State) : Result State := branchIf (fun fl => fl.finf) x s

/-- `bfninf X` (R170). -/
def execBfninf (x : Target) (s : State) : Result State := branchIf (fun fl => !fl.finf) x s

/-- `bfnnf X` (R171). -/
def execBfnnf (x : Target) (s : State) : Result State := branchIf (fun fl => fl.fnnf) x s

/-- `bfnnnf X` (R172). -/
def execBfnnnf (x : Target) (s : State) : Result State := branchIf (fun fl => !fl.fnnf) x s

/-- `bfnan X` (R173). -/
def execBfnan (x : Target) (s : State) : Result State := branchIf (fun fl => fl.fnan) x s

/-- `bfnnan X` (R174). -/
def execBfnnan (x : Target) (s : State) : Result State := branchIf (fun fl => !fl.fnan) x s

/-- `bfdn X` (R175). -/
def execBfdn (x : Target) (s : State) : Result State := branchIf (fun fl => fl.fdn) x s

/-- `bfndn X` (R176). -/
def execBfndn (x : Target) (s : State) : Result State := branchIf (fun fl => !fl.fdn) x s

/-! ## Jump and call -/

/-- `jmp X` (R179). -/
def execJmp (x : Target) (s : State) : Result State := .next { s with pc := s.targetAddr x }

/-- `%d0`..`%d7` of the current mode, in order (R180). -/
def State.dataRegs (s : State) : List Word :=
  [s.readReg 16, s.readReg 17, s.readReg 18, s.readReg 19, s.readReg 20, s.readReg 21, s.readReg 22, s.readReg 23]

/-- `call X` (R180): the target is computed first; `%d0`..`%d7` and the status word go to the supervisor stack and are
zeroed, but for S; `%lr` receives the address of the next instruction. -/
def execCall (x : Target) (s : State) : Result State :=
  andThen (s.pushAllS (s.dataRegs ++ [s.stWordNow])) fun s1 =>
    let s2 := (s1.writeRegsDown 23 (List.replicate 8 0)).setFlags Flags.clear
    .next { s2.writeReg lrReg s2.pcValue with pc := s.targetAddr x }

end Sys2Proof.Machine
end

