-- ==== Sys2Proof/Machine/Int2.lean ====
section
/-! DEFINITION. The two-operand integer instructions (spec/41_int2.md, R120 to R133). -/

namespace Sys2Proof.Machine

/-- `ld X, Y` (R122): the word at the address in Y goes to X and sets Z and N. -/
def execLd (x y : Reg) (s : State) : Result State :=
  andThen (s.readMem (s.readReg y)) fun v => .next ((s.setFlags (s.flags.setZN v)).writeReg x v)

/-- `st X, Y` (R123): X goes to the word at the address in Y; no flag changes. -/
def execSt (x y : Reg) (s : State) : Result State := s.writeMem (s.readReg y) (s.readReg x)

/-- `cp X, Y` (R124): X goes to register Y; no flag changes. -/
def execCp (x y : Reg) (s : State) : Result State := .next (s.writeReg y (s.readReg x))

/-- `cmp X, Y` (R125): Z if equal, N if Y > X; V and C stay. -/
def execCmp (x y : Reg) (s : State) : Result State :=
  let a := s.readReg x
  let b := s.readReg y
  .next (s.setFlags { s.flags with z := decide (a = b), n := cmpGreater a b })

/-- `bit X, Y` (R126): the flags of `and`, no register written. -/
def execBit (x y : Reg) (s : State) : Result State :=
  .next (s.setFlags (s.flags.setZN (s.readReg x &&& s.readReg y)))

/-- R127: X is replaced by the result for its old value, the count and the old C, and all four integer flags are
written. -/
def shiftBy (op : Word → Nat → Bool → Alu) (x : Reg) (y : Count) (s : State) : Result State :=
  let o := op (s.readReg x) (s.countValue y) s.flags.c
  .next ((s.setFlags (s.flags.setZNVC o)).writeReg x o.value)

/-- `asl X, Y` (R128). -/
def execAsl (x : Reg) (y : Count) (s : State) : Result State := shiftBy (fun v n _ => aluAsl v n) x y s

/-- `asr X, Y` (R129). -/
def execAsr (x : Reg) (y : Count) (s : State) : Result State := shiftBy (fun v n _ => aluAsr v n) x y s

/-- `shl X, Y` (R130). -/
def execShl (x : Reg) (y : Count) (s : State) : Result State := shiftBy (fun v n _ => aluShl v n) x y s

/-- `shr X, Y` (R131). -/
def execShr (x : Reg) (y : Count) (s : State) : Result State := shiftBy (fun v n _ => aluShr v n) x y s

/-- `rol X, Y` (R132). -/
def execRol (x : Reg) (y : Count) (s : State) : Result State := shiftBy aluRol x y s

/-- `ror X, Y` (R133). -/
def execRor (x : Reg) (y : Count) (s : State) : Result State := shiftBy aluRor x y s

end Sys2Proof.Machine
end

