-- ==== Sys2Proof/Machine/Int3.lean ====
section
/-! DEFINITION. The three-operand integer instructions (spec/40_int3.md, R100 to R117). -/

namespace Sys2Proof.Machine

/-- R100: both sources are read, `f` gives the result and the new flags, the flags and then Z are written. -/
def int3 (f : Word → Word → Flags → Word × Flags) (x : Reg) (y : Src) (z : Reg) (s : State) : Result State :=
  let r := f (s.readReg x) (s.srcValue y) s.flags
  .next ((s.setFlags r.2).writeReg z r.1)

/-- A result that sets Z and N only. -/
def valueZN (op : Word → Word → Word) (a b : Word) (fl : Flags) : Word × Flags := (op a b, fl.setZN (op a b))

/-- A result with its V, that sets Z, N and V. -/
def valueZNV (op : Word → Word → Word × Bool) (a b : Word) (fl : Flags) : Word × Flags :=
  ((op a b).1, fl.setZNV (op a b).1 (op a b).2)

/-- A result with its V and C, from the operands and the old C, that sets all four integer flags. -/
def valueZNVC (op : Word → Word → Bool → Alu) (a b : Word) (fl : Flags) : Word × Flags :=
  ((op a b fl.c).value, fl.setZNVC (op a b fl.c))

/-- `and X, Y, Z` (R102). -/
def execAnd (x : Reg) (y : Src) (z : Reg) (s : State) : Result State := int3 (valueZN fun a b => a &&& b) x y z s

/-- `or X, Y, Z` (R103). -/
def execOr (x : Reg) (y : Src) (z : Reg) (s : State) : Result State := int3 (valueZN fun a b => a ||| b) x y z s

/-- `xor X, Y, Z` (R104). -/
def execXor (x : Reg) (y : Src) (z : Reg) (s : State) : Result State := int3 (valueZN fun a b => a ^^^ b) x y z s

/-- `add X, Y, Z` (R105). -/
def execAdd (x : Reg) (y : Src) (z : Reg) (s : State) : Result State :=
  int3 (valueZNVC fun a b _ => aluAdd a b false) x y z s

/-- `sub X, Y, Z` (R106). -/
def execSub (x : Reg) (y : Src) (z : Reg) (s : State) : Result State :=
  int3 (valueZNVC fun a b _ => aluSub a b false) x y z s

/-- `addc X, Y, Z` (R107). -/
def execAddc (x : Reg) (y : Src) (z : Reg) (s : State) : Result State := int3 (valueZNVC aluAdd) x y z s

/-- `subc X, Y, Z` (R108). -/
def execSubc (x : Reg) (y : Src) (z : Reg) (s : State) : Result State :=
  int3 (valueZNVC fun a b c => aluSub a b (!c)) x y z s

/-- `mullo X, Y, Z` (R109). -/
def execMullo (x : Reg) (y : Src) (z : Reg) (s : State) : Result State :=
  int3 (valueZN (unsuffixed mulLow mulsLow)) x y z s

/-- `mulhi X, Y, Z` (R110). -/
def execMulhi (x : Reg) (y : Src) (z : Reg) (s : State) : Result State :=
  int3 (valueZN (unsuffixed mulHigh mulsHigh)) x y z s

/-- `mulslo X, Y, Z` (R111). -/
def execMulslo (x : Reg) (y : Src) (z : Reg) (s : State) : Result State := int3 (valueZN mulsLow) x y z s

/-- `mulshi X, Y, Z` (R112). -/
def execMulshi (x : Reg) (y : Src) (z : Reg) (s : State) : Result State := int3 (valueZN mulsHigh) x y z s

/-- `div X, Y, Z` (R114). -/
def execDiv (x : Reg) (y : Src) (z : Reg) (s : State) : Result State := int3 (valueZNV (unsuffixed divU divS)) x y z s

/-- `divs X, Y, Z` (R115). -/
def execDivs (x : Reg) (y : Src) (z : Reg) (s : State) : Result State := int3 (valueZNV divS) x y z s

/-- `mod X, Y, Z` (R116). -/
def execMod (x : Reg) (y : Src) (z : Reg) (s : State) : Result State := int3 (valueZNV (unsuffixed modU modS)) x y z s

/-- `mods X, Y, Z` (R117). -/
def execMods (x : Reg) (y : Src) (z : Reg) (s : State) : Result State := int3 (valueZNV modS) x y z s

end Sys2Proof.Machine
end

