-- ==== Sys2Proof/Machine/Simd.lean ====
section
/-! DEFINITION. The one instruction of the SIMD space (spec/46_simd.md, R240). -/

namespace Sys2Proof.Machine

/-- `nop` of the SIMD space (R240): no register, flag or memory word changes. The switch is the one U3 asks for. -/
def execSimdNop (s : State) : Result State :=
  if Config.simdNopExecutes then .next s else .refused .reservedEncoding

end Sys2Proof.Machine
end

