-- ==== Sys2Proof/Machine/Zero.lean ====
section
/-! DEFINITION. The zero-operand instructions (spec/47_zero_operand.md, R245 to R268). -/

namespace Sys2Proof.Machine

/-- `nop` (R246). -/
def execNop (s : State) : Result State := .next s

/-! ## Status register on the stack -/

/-- `pushs` (R247). -/
def execPushs (s : State) : Result State := s.push s.stWordNow

/-- `pops` (R248): all ten flags; S cannot be set or cleared. -/
def execPops (s : State) : Result State := andThen s.pop fun p => .next (p.2.setFlags (flagsOfWord p.1))

/-! ## Flag set and clear -/

/-- `clrz` (R249). -/
def execClrz (s : State) : Result State := .next (s.setFlags { s.flags with z := false })

/-- `clrn` (R250). -/
def execClrn (s : State) : Result State := .next (s.setFlags { s.flags with n := false })

/-- `clrc` (R251). -/
def execClrc (s : State) : Result State := .next (s.setFlags { s.flags with c := false })

/-- `clrv` (R252). -/
def execClrv (s : State) : Result State := .next (s.setFlags { s.flags with v := false })

/-- `setz` (R253). -/
def execSetz (s : State) : Result State := .next (s.setFlags { s.flags with z := true })

/-- `setn` (R254). -/
def execSetn (s : State) : Result State := .next (s.setFlags { s.flags with n := true })

/-- `setc` (R255). -/
def execSetc (s : State) : Result State := .next (s.setFlags { s.flags with c := true })

/-- `setv` (R256). -/
def execSetv (s : State) : Result State := .next (s.setFlags { s.flags with v := true })

/-! ## Subroutine, call and interrupt returns -/

/-- `jsr` (R260): swaps `%pc` and `%lr`. -/
def execJsr (s : State) : Result State := .next { s.writeReg lrReg s.pcValue with pc := s.readReg lrReg }

/-- `rts` (R261): `%lr` keeps its value (C6). -/
def execRts (s : State) : Result State := .next { s with pc := s.readReg lrReg }

/-- `ret` (R262): pops the status word and `%d7`..`%d0` from the supervisor stack, and returns through `%lr`. -/
def execRet (s : State) : Result State :=
  andThen (s.popAllS 9) fun p =>
    let s1 := (p.2.writeRegsDown 23 p.1.tail).setFlags (flagsOfWord (p.1.headD 0))
    .next { s1 with pc := s1.readReg lrReg }

/-- `rti` (R263): in user mode the mode does not change and this is `rts`. -/
def execRti (s : State) : Result State := .next s.returnToUser

/-- `int N` (R264): `%i0`..`%i7` are copied to the supervisor's and N joins the buffer; the next step delivers it if the
mode is user. -/
def execInt (n : Nat) (s : State) : Result State :=
  let xs := ((((((((s.xs.set 0 s.bank[0]).set 1 s.bank[1]).set 2 s.bank[2]).set 3 s.bank[3]).set 4 s.bank[4]).set 5
    s.bank[5]).set 6 s.bank[6]).set 7 s.bank[7])
  .next (State.requestInt { s with xs := xs } (BitVec.ofNat 8 n))

/-- `stop` (R265): the core waits from the next step on (R300). -/
def execStop (s : State) : Result State := .next { s with stopped := true }

/-! ## Supervisor only -/

/-- R257: in user mode the instruction has no behaviour in any source. -/
def supervisorOnly (s : State) (k : Result State) : Result State :=
  match s.mode with
  | .user => .refused .supervisorOnly
  | .supervisor => k

/-- `pushu` (R266): the 31 user registers and the user status word go to the supervisor stack; the supervisor `%lr` is
unspecified afterwards (U5). -/
def execPushu (s : State) : Result State :=
  supervisorOnly s <| andThen (s.pushAllS (s.xu.toList ++ [stWord .user s.stu])) fun s1 =>
    .next { s1.drawWord.2 with xs := s1.xs.set 15 s1.drawWord.1 }

/-- `popu` (R267): the inverse of `pushu`; `pc` and the supervisor `%lr` stay. -/
def execPopu (s : State) : Result State :=
  supervisorOnly s <| andThen (s.popAllS 32) fun p =>
    .next ((p.2.setFlagsOf .user (flagsOfWord (p.1.headD 0))).writeUserDown 30 p.1.tail)

/-- `user` (R268). -/
def execUser (s : State) : Result State := supervisorOnly s (.next s.returnToUser)

end Sys2Proof.Machine
end

