-- ==== Sys2Proof/Machine/Dispatch.lean ====
section
/-! DEFINITION. The meaning of each instruction, one direct call for each constructor. -/

namespace Sys2Proof.Machine

def exec (i : Instr) (s : State) : Host.Outcome State Fault Refusal :=
  match i with
  | .and x y z => Sys2Proof.Machine.execAnd x y z s
  | .or x y z => Sys2Proof.Machine.execOr x y z s
  | .xor x y z => Sys2Proof.Machine.execXor x y z s
  | .add x y z => Sys2Proof.Machine.execAdd x y z s
  | .sub x y z => Sys2Proof.Machine.execSub x y z s
  | .addc x y z => Sys2Proof.Machine.execAddc x y z s
  | .subc x y z => Sys2Proof.Machine.execSubc x y z s
  | .mullo x y z => Sys2Proof.Machine.execMullo x y z s
  | .mulhi x y z => Sys2Proof.Machine.execMulhi x y z s
  | .mulslo x y z => Sys2Proof.Machine.execMulslo x y z s
  | .mulshi x y z => Sys2Proof.Machine.execMulshi x y z s
  | .div x y z => Sys2Proof.Machine.execDiv x y z s
  | .divs x y z => Sys2Proof.Machine.execDivs x y z s
  | .mod x y z => Sys2Proof.Machine.execMod x y z s
  | .mods x y z => Sys2Proof.Machine.execMods x y z s
  | .ld x y => Sys2Proof.Machine.execLd x y s
  | .st x y => Sys2Proof.Machine.execSt x y s
  | .cp x y => Sys2Proof.Machine.execCp x y s
  | .cmp x y => Sys2Proof.Machine.execCmp x y s
  | .bit x y => Sys2Proof.Machine.execBit x y s
  | .asl x y => Sys2Proof.Machine.execAsl x y s
  | .asr x y => Sys2Proof.Machine.execAsr x y s
  | .shl x y => Sys2Proof.Machine.execShl x y s
  | .shr x y => Sys2Proof.Machine.execShr x y s
  | .rol x y => Sys2Proof.Machine.execRol x y s
  | .ror x y => Sys2Proof.Machine.execRor x y s
  | .push x => Sys2Proof.Machine.execPush x s
  | .pop x => Sys2Proof.Machine.execPop x s
  | .nor x => Sys2Proof.Machine.execNor x s
  | .neg x => Sys2Proof.Machine.execNeg x s
  | .clr x => Sys2Proof.Machine.execClr x s
  | .set x => Sys2Proof.Machine.execSet x s
  | .inc x => Sys2Proof.Machine.execInc x s
  | .dec x => Sys2Proof.Machine.execDec x s
  | .beq x => Sys2Proof.Machine.execBeq x s
  | .bne x => Sys2Proof.Machine.execBne x s
  | .bgt x => Sys2Proof.Machine.execBgt x s
  | .blt x => Sys2Proof.Machine.execBlt x s
  | .bge x => Sys2Proof.Machine.execBge x s
  | .bpl x => Sys2Proof.Machine.execBpl x s
  | .bmi x => Sys2Proof.Machine.execBmi x s
  | .bvc x => Sys2Proof.Machine.execBvc x s
  | .bvs x => Sys2Proof.Machine.execBvs x s
  | .bcc x => Sys2Proof.Machine.execBcc x s
  | .bcs x => Sys2Proof.Machine.execBcs x s
  | .bfeq x => Sys2Proof.Machine.execBfeq x s
  | .bfne x => Sys2Proof.Machine.execBfne x s
  | .bfgt x => Sys2Proof.Machine.execBfgt x s
  | .bflt x => Sys2Proof.Machine.execBflt x s
  | .bfge x => Sys2Proof.Machine.execBfge x s
  | .bfpl x => Sys2Proof.Machine.execBfpl x s
  | .bfmi x => Sys2Proof.Machine.execBfmi x s
  | .bfinf x => Sys2Proof.Machine.execBfinf x s
  | .bfninf x => Sys2Proof.Machine.execBfninf x s
  | .bfnnf x => Sys2Proof.Machine.execBfnnf x s
  | .bfnnnf x => Sys2Proof.Machine.execBfnnnf x s
  | .bfnan x => Sys2Proof.Machine.execBfnan x s
  | .bfnnan x => Sys2Proof.Machine.execBfnnan x s
  | .bfdn x => Sys2Proof.Machine.execBfdn x s
  | .bfndn x => Sys2Proof.Machine.execBfndn x s
  | .jmp x => Sys2Proof.Machine.execJmp x s
  | .call x => Sys2Proof.Machine.execCall x s
  | .fadd f g h => Sys2Proof.Machine.execFadd f g h s
  | .fsub f g h => Sys2Proof.Machine.execFsub f g h s
  | .fmul f g h => Sys2Proof.Machine.execFmul f g h s
  | .fdiv f g h => Sys2Proof.Machine.execFdiv f g h s
  | .fatan f g h => Sys2Proof.Machine.execFatan f g h s
  | .fld x g => Sys2Proof.Machine.execFld x g s
  | .fst x g => Sys2Proof.Machine.execFst x g s
  | .fcp f g => Sys2Proof.Machine.execFcp f g s
  | .fitof x g => Sys2Proof.Machine.execFitof x g s
  | .fftoi f y => Sys2Proof.Machine.execFftoi f y s
  | .fsqrt f g => Sys2Proof.Machine.execFsqrt f g s
  | .fsin f g => Sys2Proof.Machine.execFsin f g s
  | .fcos f g => Sys2Proof.Machine.execFcos f g s
  | .flog f g => Sys2Proof.Machine.execFlog f g s
  | .fexp f g => Sys2Proof.Machine.execFexp f g s
  | .fcmp f g => Sys2Proof.Machine.execFcmp f g s
  | .fclr f => Sys2Proof.Machine.execFclr f s
  | .fpush f => Sys2Proof.Machine.execFpush f s
  | .fpop f => Sys2Proof.Machine.execFpop f s
  | .fneg f => Sys2Proof.Machine.execFneg f s
  | .fabs f => Sys2Proof.Machine.execFabs f s
  | .fpi f => Sys2Proof.Machine.execFpi f s
  | .fe f => Sys2Proof.Machine.execFe f s
  | .nop => Sys2Proof.Machine.execNop s
  | .pushs => Sys2Proof.Machine.execPushs s
  | .pops => Sys2Proof.Machine.execPops s
  | .clrz => Sys2Proof.Machine.execClrz s
  | .clrn => Sys2Proof.Machine.execClrn s
  | .clrc => Sys2Proof.Machine.execClrc s
  | .clrv => Sys2Proof.Machine.execClrv s
  | .setz => Sys2Proof.Machine.execSetz s
  | .setn => Sys2Proof.Machine.execSetn s
  | .setc => Sys2Proof.Machine.execSetc s
  | .setv => Sys2Proof.Machine.execSetv s
  | .jsr => Sys2Proof.Machine.execJsr s
  | .rts => Sys2Proof.Machine.execRts s
  | .ret => Sys2Proof.Machine.execRet s
  | .rti => Sys2Proof.Machine.execRti s
  | .int n => Sys2Proof.Machine.execInt n s
  | .stop => Sys2Proof.Machine.execStop s
  | .pushu => Sys2Proof.Machine.execPushu s
  | .popu => Sys2Proof.Machine.execPopu s
  | .user => Sys2Proof.Machine.execUser s
  | .simdNop => Sys2Proof.Machine.execSimdNop s

end Sys2Proof.Machine
end

