-- ==== Sys2Proof/Machine/Step.lean ====
section
/-! DEFINITION. One step of the core (R40), and the placing of an instruction word where the next step fetches. -/

namespace Sys2Proof.Machine

/-- (4) of R40: fetch, advance `pc`, decode and execute. What arrives during the step joins the buffer before the
instruction acts, which is one of the two orders R288 leaves to the environment; the other is the next step's. -/
def runInstr (s : State) : Result State :=
  andThen s.fetch fun w =>
    match decode w with
    | .ok i => exec i s.advance.arriveDuring
    | .error e => .refused (refusalOf e)

/-- One step (R40), after the environment has appended what arrives before it (R282). -/
def step (s : State) : Host.Outcome State Fault Refusal :=
  let s1 := s.arriveBetween
  if s1.waits then .next s1.arriveDuring
  else
    match s1.wake.pendingInterrupt with
    | some n => .next (s1.wake.deliver n).arriveDuring
    | none => runInstr s1.wake

/-- `s` with an instruction word stored where `step` fetches next. The machine has one instruction length, 32 bits
(R70), so bits of `w` above `nbits` are 0. -/
def State.withFetchWord (s : State) (nbits w : Nat) : State := s.placeFetchWord (BitVec.ofNat 32 (w % 2 ^ nbits))

end Sys2Proof.Machine
end

