-- ==== Sys2Proof/Safety.lean ====
section
/-! DEFINITION. The terms claims are stated in: the invariant of the machine, which accesses are admitted, what an
instruction may change, and what the floating-point values are. Nothing here is used by the machine. -/

namespace Sys2Proof.Machine

/-! ## Invariant -/

/-- Memory keeps its canonical form inside the address space (R50), and the interrupt buffer holds at most 256 entries
(R37). -/
def State.Inv (s : State) : Prop := s.mem.wf = true ∧ s.ibuf.length ≤ 256

/-! ## Encodings -/

/-- Bits `hi` down to `lo` of the instruction's word are `value` (R10). -/
def EncodesAs (i : Instr) (hi lo value : Nat) : Prop := i.wellFormed = true → bits (encode i) hi lo = value

/-! ## Admitted accesses -/

/-- The word at `a` is memory and holds `v`. -/
def Readable (s : State) (a v : Word) : Prop :=
  kindAt s.memMap a = some .memory ∧ s.mem.readWord a = some v

/-- A store to `a` is admitted: `a` is memory and is neither of the next two instruction words (R67). -/
def Storable (s : State) (a : Word) : Prop :=
  kindAt s.memMap a = some .memory ∧ a ≠ s.pc ∧ a ≠ s.pc + 1

/-! ## Frames -/

/-- The byte key `k` belongs to another word than `a`. -/
def Outside (a : Word) (k : Nat) : Prop := k < byteKey a 0 ∨ byteKey a 3 < k

/-- From `s` to `t`, the words `l` (address, value) were stored, in that order, and every other byte reads as before. -/
def Stores (s t : State) (l : List (Word × Word)) : Prop :=
  (∀ p ∈ l, t.mem.readWord p.1 = some p.2) ∧
  (∀ k, (∀ p ∈ l, Outside p.1 k) → t.mem.readByte k = s.mem.readByte k) ∧
  t.storesLast = (l.map Prod.fst).reverse ++ s.storesLast

/-- The SIMD registers, the environment's schedule and the platform are as before, and so is the record of the
instruction before. -/
def SameRest (s t : State) : Prop :=
  t.m = s.m ∧ t.extIrq = s.extIrq ∧ t.memMap = s.memMap ∧ t.vectors = s.vectors ∧ t.storesPrev = s.storesPrev

/-- The mode, the interrupt buffer and the wait bit are as before. -/
def SameControl (s t : State) : Prop := t.mode = s.mode ∧ t.ibuf = s.ibuf ∧ t.stopped = s.stopped

/-- Of the integer registers of both banks, only those numbered `us` (user) and `ss` (supervisor) may differ. -/
def OnlyBanks (s t : State) (us ss : List Nat) : Prop :=
  (∀ k (h : k < 31), k ∉ us → t.xu[k] = s.xu[k]) ∧ (∀ k (h : k < 31), k ∉ ss → t.xs[k] = s.xs[k])

/-- Of the integer registers, `pc` included, only those numbered `regs` of the current mode may differ. -/
def OnlyRegs (s t : State) (regs : List Reg) : Prop :=
  (∀ k, k ∉ regs → t.readReg k = s.readReg k) ∧
  (s.mode = .user → t.xs = s.xs) ∧ (s.mode = .supervisor → t.xu = s.xu)

/-- The flags in force become `fl`, and those of the other mode stay. -/
def FlagsBecome (s t : State) (fl : Flags) : Prop :=
  t.flags = fl ∧ (s.mode = .user → t.sts = s.sts) ∧ (s.mode = .supervisor → t.stu = s.stu)

/-- Of the floating-point registers, only those numbered `frs` may differ. -/
def OnlyF (s t : State) (frs : List FReg) : Prop := ∀ j, j ∉ frs → t.readF j = s.readF j

/-- What an instruction that stays in its own bank may change: the registers `regs`, the flags in force, which become
`fl`, the floating-point registers `frs`, the stored words, and the count of draws; nothing else. -/
def Changes (s t : State) (regs : List Reg) (fl : Flags) (frs : List FReg) (stored : List (Word × Word)) (drawn : Nat) :
    Prop :=
  OnlyRegs s t regs ∧ FlagsBecome s t fl ∧ OnlyF s t frs ∧ Stores s t stored ∧ t.draws = s.draws + drawn ∧
  SameControl s t ∧ SameRest s t

/-- The instruction completes, register `z` holds `r`, the flags in force become `fl`, and nothing else changes. -/
def GivesReg (out : Result State) (s : State) (z : Reg) (r : Word) (fl : Flags) : Prop :=
  ∃ t, out = .next t ∧ t.readReg z = r ∧ Changes s t [z] fl [] [] 0

/-- The instruction completes and only the flags in force change. -/
def GivesFlags (out : Result State) (s : State) (fl : Flags) : Prop :=
  ∃ t, out = .next t ∧ Changes s t [] fl [] [] 0

/-- The instruction completes, floating-point register `j` holds `d`, the flags in force become `fl`, and nothing else
changes. -/
def GivesF (out : Result State) (s : State) (j : FReg) (d : Word64) (fl : Flags) : Prop :=
  ∃ t, out = .next t ∧ t.readF j = d ∧ Changes s t [] fl [j] [] 0

/-! ## Flag formulas -/

/-- R34: `Z <- (r = 0)` and `N <- r[31]`. -/
def zn (fl : Flags) (r : Word) : Flags := { fl with z := decide (r = 0), n := r.getLsbD 31 }

/-- Z and N from `r`, and V. -/
def znv (fl : Flags) (r : Word) (v : Bool) : Flags := { zn fl r with v := v }

/-- Z and N from `r`, V and C. -/
def znvc (fl : Flags) (r : Word) (v c : Bool) : Flags := { zn fl r with v := v, c := c }

/-- The signed reading of the exact result does not fit a word. -/
def overflows (t : Int) : Bool := decide (t < -2 ^ 31 ∨ t > 2 ^ 31 - 1)

/-! ## Floating-point values (R190) -/

/-- A NaN: exponent field 2047, fraction not 0. -/
def NanPattern (d : Word64) : Prop := d.extractLsb' 52 11 = 2047 ∧ d.extractLsb' 0 52 ≠ 0

/-- An infinity or a NaN has exponent field 2047; every other pattern is a finite number. -/
def FinitePattern (d : Word64) : Prop := d.extractLsb' 52 11 ≠ 2047

/-- The value of a finite pattern. -/
def fVal (d : Word64) : ℚ :=
  let e := (d.extractLsb' 52 11).toNat
  let m := (d.extractLsb' 0 52).toNat
  (if d.getLsbD 63 then -1 else 1) *
    (if e = 0 then (m : ℚ) / 2 ^ 1074 else ((2 ^ 52 + m : Nat) : ℚ) * 2 ^ e / 2 ^ 1075)

/-- `d` is the nonzero real `x` rounded to nearest, ties to even, with subnormals kept and the sign of `x`; from half a
last place above the largest finite number on, it is the infinity (R191). -/
def Nearest (x : ℝ) (d : Word64) : Prop :=
  d.getLsbD 63 = decide (x < 0) ∧
  if 2 ^ 1024 - 2 ^ 970 ≤ |x| then d.extractLsb' 0 63 = 0x7FF0000000000000
  else FinitePattern d ∧
    ∀ y, FinitePattern y → |(fVal d : ℝ) - x| ≤ |(fVal y : ℝ) - x| ∧
      (|(fVal d : ℝ) - x| = |(fVal y : ℝ) - x| → fVal y ≠ fVal d → d.getLsbD 0 = false)

/-- The six F flags of `SetAllF(d)` as R192 lists them. -/
def allF (fl : Flags) (d : Word64) : Flags :=
  let nan := decide (d.extractLsb' 52 11 = 2047) && decide (d.extractLsb' 0 52 ≠ 0)
  let zero := decide (d = 0x0000000000000000) || decide (d = 0x8000000000000000)
  { fl with
    fnan := nan
    finf := decide (d = 0x7FF0000000000000)
    fnnf := decide (d = 0xFFF0000000000000)
    fz := zero
    fn := d.getLsbD 63 && !zero && !nan
    fdn := decide (d.extractLsb' 52 11 = 0) && decide (d.extractLsb' 0 52 ≠ 0) }

/-- The instruction completes, floating-point register `j` holds `r`, or, where `r` is `none`, some NaN; the six F flags
follow from what `j` then holds, and nothing else changes. -/
def GivesResult (out : Result State) (s : State) (j : FReg) (r : Option Word64) : Prop :=
  ∃ t, out = .next t ∧ (∀ d, r = some d → t.readF j = d) ∧ (r = none → NanPattern (t.readF j)) ∧
    Changes s t [] (allF s.flags (t.readF j)) [j] [] (if r.isNone then 1 else 0)

/-! ## Runs -/

/-- The step executes an instruction: the core does not wait, and no interrupt is delivered (R40). -/
def Executes (s : State) : Prop :=
  ¬ (s.stopped = true ∧ s.arriveBetween.ibuf = []) ∧ ¬ (s.mode = .user ∧ s.arriveBetween.ibuf ≠ [])

/-- The word `w` is fetched at the program counter: it is memory, and neither of the last two instructions stored
there (R67). -/
def Fetches (s : State) (w : Word) : Prop :=
  Readable s s.pc w ∧ s.pc ∉ s.storesLast ∧ s.pc ∉ s.storesPrev

/-- The state in which the instruction of a step acts: what arrives has arrived, the core is awake, `pc` has advanced,
and the record of stores has moved on (R27, R40). -/
def State.acting (s : State) : State :=
  State.arriveDuring { s.arriveBetween with
    stopped := false
    pc := s.pc + 1
    storesPrev := s.storesLast
    storesLast := [] }

/-! ## What the rules of an instruction format say

Each of these says, for one instruction, which bits of its word are fixed and what it does to every state. -/

/-- A three-operand integer instruction (R100): the result and the flags in force, from X, Y and the old flags. -/
def Int3Rule (mk : Reg → Src → Reg → Instr) (op : Nat) (res : Word → Word → Flags → Word)
    (fl : Word → Word → Flags → Flags) : Prop :=
  ∀ (x : Reg) (y : Src) (z : Reg) (s : State), EncodesAs (mk x y z) 31 27 (16 + op) ∧
    GivesReg (exec (mk x y z) s) s z (res (s.readReg x) (s.srcValue y) s.flags) (fl (s.readReg x) (s.srcValue y) s.flags)

/-- A shift or rotation (R127): the result, V and C, from the old value and the count. -/
def ShiftRule (mk : Reg → Count → Instr) (op : Nat) (res : Word → Nat → Word) (v c : Word → Nat → Bool) : Prop :=
  ∀ (x : Reg) (y : Count) (s : State), EncodesAs (mk x y) 31 26 (16 + op) ∧
    GivesReg (exec (mk x y) s) s x (res (s.readReg x) (s.countValue y))
      (znvc s.flags (res (s.readReg x) (s.countValue y)) (v (s.readReg x) (s.countValue y))
        (c (s.readReg x) (s.countValue y)))

/-- Any 1 bit among `v[31:32-n]`. -/
def anyLeft (v : Word) (n : Nat) : Bool := (List.range 32).any fun i => decide (32 - n ≤ i) && v.getLsbD i

/-- Any 1 bit among `v[n-1:0]`. -/
def anyRight (v : Word) (n : Nat) : Bool := (List.range 32).any fun i => decide (i < n) && v.getLsbD i

/-- `v[32-n]`, or 0 if nothing moves. -/
def lastLeft (v : Word) (n : Nat) : Bool := decide (n ≠ 0) && v.getLsbD (32 - n)

/-- `v[n-1]`, or 0 if nothing moves. -/
def lastRight (v : Word) (n : Nat) : Bool := decide (n ≠ 0) && v.getLsbD (n - 1)

/-- A one-register instruction (R140): the result and the flags in force, from the old value and the old flags. -/
def Int1Rule (mk : Reg → Instr) (op : Nat) (res : Word → Word) (fl : Word → Flags → Flags) : Prop :=
  ∀ (x : Reg) (s : State), EncodesAs (mk x) 31 22 (128 + 2 * op) ∧
    GivesReg (exec (mk x) s) s x (res (s.readReg x)) (fl (s.readReg x) s.flags)

/-- A branch (R149): `pc` becomes the target if the condition holds, and nothing else changes in either case. -/
def BranchRule (mk : Target → Instr) (op : Nat) (cond : Flags → Bool) : Prop :=
  ∀ (x : Target) (s : State), EncodesAs (mk x) 31 23 (64 + op) ∧
    (cond s.flags = true → exec (mk x) s = .next { s with pc := s.targetAddr x }) ∧
    (cond s.flags = false → exec (mk x) s = .next s)

/-- A three-operand floating-point instruction (R193): H receives the result, which sets all six F flags. -/
def Fp3Rule (mk : FReg → FReg → FReg → Instr) (op : Nat) (res : Word64 → Word64 → Option Word64) : Prop :=
  ∀ (f g h : FReg) (s : State), EncodesAs (mk f g h) 31 24 (24 + op) ∧
    GivesResult (exec (mk f g h) s) s h (res (s.readF f) (s.readF g))

/-- A two-operand floating-point instruction whose result goes to G and sets all six F flags (R205). -/
def Fp2Rule (mk : FReg → FReg → Instr) (op : Nat) (res : Word64 → Option Word64) : Prop :=
  ∀ (f g : FReg) (s : State), EncodesAs (mk f g) 31 22 (80 + op) ∧
    GivesResult (exec (mk f g) s) s g (res (s.readF f))

/-- A one-operand floating-point instruction: F receives the result, and the flags in force become `fl` (R225). -/
def Fp1Rule (mk : FReg → Instr) (op : Nat) (res : Word64 → Word64) (fl : Flags → Word64 → Flags) : Prop :=
  ∀ (f : FReg) (s : State), EncodesAs (mk f) 31 22 (72 + op) ∧
    GivesF (exec (mk f) s) s f (res (s.readF f)) (fl s.flags (res (s.readF f)))

/-- An instruction of the zero-operand format that writes one flag (R249 to R256). -/
def FlagRule (i : Instr) (op : Nat) (fl : Flags → Flags) : Prop :=
  ∀ s : State, EncodesAs i 31 23 op ∧ GivesFlags (exec i s) s (fl s.flags)

/-! ## Frames on the supervisor stack -/

/-- The nine words `call` stores, in order, with their addresses (R180). -/
def callFrame (s : State) : List (Word × Word) :=
  [(s.ssp - 1, s.readReg 16), (s.ssp - 2, s.readReg 17), (s.ssp - 3, s.readReg 18), (s.ssp - 4, s.readReg 19),
    (s.ssp - 5, s.readReg 20), (s.ssp - 6, s.readReg 21), (s.ssp - 7, s.readReg 22), (s.ssp - 8, s.readReg 23),
    (s.ssp - 9, stWord s.mode s.flags)]

/-- The thirty-two words `pushu` stores, in order, with their addresses (R266). -/
def pushuFrame (s : State) : List (Word × Word) :=
  (List.finRange 31).map (fun k => (s.ssp - BitVec.ofNat 32 (k.val + 1), s.xu[k.val])) ++ [(s.ssp - 32, stWord .user s.stu)]

/-- The numbers of `%d0`..`%d7` (R21). -/
def dataNumbers : List Nat := [16, 17, 18, 19, 20, 21, 22, 23]

/-! ## Words that differ in ignored bits only (R91) -/

/-- Bit `i` of the word `w` is one that the source, or D40, marks as ignored. -/
def Ignored (w : Word) (i : Nat) : Prop :=
  (bits w 31 31 = 1 ∧ bits w 21 21 = 0 ∧ 10 ≤ i ∧ i ≤ 20) ∨
  (bits w 31 30 = 1 ∧ i ≤ 14) ∨
  (bits w 31 29 = 1 ∧ bits w 22 22 = 0 ∧ 5 ≤ i ∧ i ≤ 21) ∨
  (bits w 31 27 = 3 ∧ i ≤ 11) ∨
  (bits w 31 26 = 5 ∧ (i ≤ 11 ∨ (i = 21 ∧ bits w 25 22 ∉ [0, 1, 3]) ∨ (i = 16 ∧ bits w 25 22 ≠ 4))) ∨
  (bits w 31 25 = 9 ∧ i ≤ 17) ∨
  (bits w 31 28 = 0 ∧ (i ≤ 14 ∨ (i ≤ 22 ∧ bits w 27 23 ≠ 15)))

/-- The words of R92. -/
def ReservedWord (w : Word) : Prop :=
  (bits w 31 31 = 1 ∧ bits w 30 27 = 15) ∨
  (bits w 31 30 = 1 ∧ 11 ≤ bits w 29 26) ∨
  (bits w 31 29 = 1 ∧ 36 ≤ bits w 28 23) ∨
  (bits w 31 27 = 3 ∧ 5 ≤ bits w 26 24) ∨
  (bits w 31 26 = 5 ∧ 11 ≤ bits w 25 22) ∨
  (bits w 31 25 = 9 ∧ bits w 24 22 = 7) ∨
  (bits w 31 28 = 0 ∧ 20 ≤ bits w 27 23) ∨
  (bits w 31 23 = 34 ∧ bits w 22 0 ≠ 0) ∨
  bits w 31 23 = 35 ∨
  bits w 31 24 = 16

/-- The words of R93. -/
def ReservedForm (w : Word) : Prop :=
  (bits w 31 30 = 1 ∧ bits w 29 26 ≤ 4 ∧ bits w 20 20 = 1) ∨
  (bits w 31 29 = 1 ∧ bits w 28 23 ≤ 7 ∧ bits w 22 22 = 1)

/-! ## Values with infinities, and isolation -/

/-- The value of a pattern that is no NaN, infinities included (R190). -/
noncomputable def fExt (d : Word64) : EReal :=
  if d = 0x7FF0000000000000 then ⊤ else if d = 0xFFF0000000000000 then ⊥ else ((fVal d : ℝ) : EReal)

/-- A rational truncated toward zero. -/
def truncRat (q : ℚ) : Int := if q < 0 then ⌈q⌉ else ⌊q⌋

/-- Put `f` on the next state of an outcome. -/
def mapNext (f : State → State) : Result State → Result State
  | .next t => .next (f t)
  | .fault e => .fault e
  | .refused e => .refused e

/-- `s` with the supervisor's registers and flags replaced. -/
def State.withSupervisor (s : State) (xs : Vector Word 31) (sts : Flags) : State := { s with xs := xs, sts := sts }

end Sys2Proof.Machine
end

