-- ==== Sys2Proof/Certificates/Slice0/Obligations.lean ====
section
/-! DEFINITION. The statements for the provers. The vocabulary they are made of is in Sys2Proof/Safety.lean. A statement
about one instruction starts in the state in which the instruction acts, so that `pc` is the address after it (R27). Every
statement about memory assumes, as R62 asks to be recorded, that `TRANSLATE` is the identity (log entry 10). -/

open Sys2Proof Sys2Proof.Machine

/-- For every RESET_PC: after reset the mode is supervisor, ibuf is empty, stopped is false, pc is RESET_PC and no
memory word has been written. The register and flag values at reset are the model's (log entries 1 to 4) and nothing is
said of them; that memory lists nothing stands for the spec's unspecified memory (log entry 6). (70_reset_and_hazards.md
section 1 (R311, of which the mode, ibuf and stopped); 10_state.md section 7 (R41)) -/
def Obligations.ResetLeavesSupervisorModeAndEmptyBuffer : Prop :=
  ∀ p : Word,
    (State.resetAt p).mode = .supervisor ∧ (State.resetAt p).ibuf = [] ∧ (State.resetAt p).stopped = false ∧
    (State.resetAt p).pc = p ∧ (State.resetAt p).mem = [] ∧ State.reset = State.resetAt Config.resetPc

/-- After reset, whatever RESET_PC is, memory has its canonical form and the interrupt buffer holds at most 256 entries.
(10_state.md R37; 20_memory.md R50) -/
def Obligations.ResetStateSatisfiesTheInvariant : Prop :=
  ∀ p : Word, (State.resetAt p).Inv

/-- The words 0xF540013E, 0xA7FFFFCF, 0x6A638000, 0x567F8000, 0x3180001C, 0x30E00000, 0x1C9AF000, 0x1686C000,
0x143C1000, 0x13AC0000, 0x07D28000 and 0x11000000 decode to the instructions that the encoding vectors give.
(95_test_vectors.md section 2; 30_encoding.md section 2) -/
def Obligations.SampleWordsDecodeToTheirInstructions : Prop :=
  decode 0xF540013E = .ok (.mods 21 (.reg 9) 30) ∧ decode 0xA7FFFFCF = .ok (.sub 31 (.lit (-2)) 15) ∧
    decode 0x6A638000 = .ok (.ror 19 (.reg 7)) ∧ decode 0x567F8000 = .ok (.asl 19 (.lit 31)) ∧
    decode 0x3180001C = .ok (.call (.reg 28)) ∧ decode 0x30E00000 = .ok (.bfndn (.rel (-2097152))) ∧
    decode 0x1C9AF000 = .ok (.fatan 9 10 15) ∧ decode 0x1686C000 = .ok (.fcmp 3 12) ∧
    decode 0x143C1000 = .ok (.fld 30 1) ∧ decode 0x13AC0000 = .ok (.fe 11) ∧
    decode 0x07D28000 = .ok (.int 165) ∧ decode 0x11000000 = .ok .simdNop

/-- If the step executes (the core does not wait and no interrupt is delivered), the word at pc is readable memory that
neither of the last two instructions stored to, and it decodes to i, then step is exec i on the state with pc advanced
by one, the core awake, the record of stores moved on, and what arrives appended to the buffer. (The arrivals and the
record are the model's bookkeeping for R282, R288 and R67, log entries 9 and 11.) (10_state.md R40, clause (4);
10_state.md R27; 20_memory.md R54) -/
def Obligations.StepRunsTheDecodedInstruction : Prop :=
  ∀ (s : State) (w : Word) (i : Instr), Executes s → Fetches s w → decode w = .ok i → step s = exec i s.acting

/-- If the core is stopped and its buffer is empty after the arrivals, the step changes nothing but what arrives during
it. If the mode is user and the buffer is n :: rest, the step delivers n: n leaves the buffer, xs[15] receives pc, the
mode becomes supervisor, pc becomes VEC(n), a stopped core is awake, and nothing else changes (but for what arrives
during the step). The first clause is the model's choice: R40 clause (1) gives a waiting core no step, and the model
answers a next state (log entry 22). That arrivals come from a schedule, before and during a step, is the model's choice
too (log entries 9 and 30). The second clause is R285. (10_state.md R40, clauses (1) and (3); 60_exceptions.md R282,
R285, R288; log entries 9, 22 and 30) -/
def Obligations.StepWaitsOrDelivers : Prop :=
  ∀ s : State,
    (s.stopped = true → s.arriveBetween.ibuf = [] → step s = .next s.arriveBetween.arriveDuring) ∧
    (∀ n rest, s.mode = .user → s.arriveBetween.ibuf = n :: rest →
      step s = .next (State.arriveDuring { s.arriveBetween with
        ibuf := rest
        xs := s.xs.set 15 s.pc
        mode := .supervisor
        pc := s.vecOf n
        stopped := false }))

/-- x[31] reads pc and x[i] for i < 31 reads xu[i] in user mode and xs[i] in supervisor mode. Writing x[31] writes pc
only; writing x[i] for i < 31 writes that register of the current bank only. (R24; R25) -/
def Obligations.RegisterFileFollowsModeAndPc : Prop :=
  ∀ (s : State) (i : Reg) (v : Word),
    (i = 31 → s.readReg i = s.pc) ∧
    (∀ h : i.val < 31, (s.mode = .user → s.readReg i = s.xu[i.val]) ∧ (s.mode = .supervisor → s.readReg i = s.xs[i.val])) ∧
    (i = 31 → s.writeReg i v = { s with pc := v }) ∧
    (∀ h : i.val < 31,
      (s.mode = .user → s.writeReg i v = { s with xu := s.xu.set i.val v }) ∧
      (s.mode = .supervisor → s.writeReg i v = { s with xs := s.xs.set i.val v }))

/-- Operand Y of an INT3 instruction is the register, or the sign-extended literal. A shift count is the low five bits
of the register, or the literal 0..31. A branch target is the register, or pc plus the signed literal modulo 2^32.
(30_encoding.md R73, R75, R77; 41_int2.md R127; 42_int1_control.md R150) -/
def Obligations.OperandFormsHaveTheirValues : Prop :=
  ∀ s : State,
    (∀ r, s.srcValue (.reg r) = s.readReg r) ∧ (∀ b : BitVec 16, s.srcValue (.lit b.toInt) = b.signExtend 32) ∧
    (∀ r, s.countValue (.reg r) = ((s.readReg r).extractLsb' 0 5).toNat) ∧ (∀ n < 32, s.countValue (.lit n) = n) ∧
    (∀ r, s.targetAddr (.reg r) = s.readReg r) ∧
    (∀ b : BitVec 22, s.targetAddr (.rel b.toInt) = s.pc + b.signExtend 32)

/-- StWord(m) has Z, N, V, C, FZ, FN, FINF, FNNF, FNAN, FDN in bits 0 to 9, S (1 in supervisor mode) in bit 10 and 0
above; SetSt takes the ten flags from bits 9:0, so it undoes StWord, and it depends on no other bit. (R32) -/
def Obligations.StatusWordLayoutRoundTrips : Prop :=
  (∀ (md : Mode) (fl : Flags),
      (List.range 32).map (stWord md fl).getLsbD =
        [fl.z, fl.n, fl.v, fl.c, fl.fz, fl.fn, fl.finf, fl.fnnf, fl.fnan, fl.fdn, decide (md = .supervisor)] ++
          List.replicate 21 false) ∧
    (∀ (md : Mode) (fl : Flags), flagsOfWord (stWord md fl) = fl) ∧
    (∀ w w' : Word, w.extractLsb' 0 10 = w'.extractLsb' 0 10 → flagsOfWord w = flagsOfWord w') ∧
    (∀ (s : State) (md : Mode) (fl : Flags), s.setFlagsOf md fl =
      { s with stu := if md = .user then fl else s.stu, sts := if md = .supervisor then fl else s.sts })

/-- For every state and every operand form, and, or and xor (INT3 op 0, 1, 2) complete: register Z (a jump if it is pc)
receives the bitwise result of X and Y, flags Z and N follow from it, V, C and the F flags stay, and nothing else
changes: no other register of either bank, no byte of memory. (R102; R103; R104) -/
def Obligations.BitwiseInstructionsGiveTheirResults : Prop :=
  Int3Rule .and 0 (fun a b _ => a &&& b) (fun a b fl => zn fl (a &&& b)) ∧
    Int3Rule .or 1 (fun a b _ => a ||| b) (fun a b fl => zn fl (a ||| b)) ∧
    Int3Rule .xor 2 (fun a b _ => a ^^^ b) (fun a b fl => zn fl (a ^^^ b))

/-- For every state and every operand form, add, sub, addc, subc (INT3 op 3 to 6) complete: Z receives the sum or
difference modulo 2^32 (with the carry, or less 1 - C, for the two with carry), V says that the exact signed result does
not fit, C is the carry out, or for a subtraction that there is no borrow; Z and N follow from the result and nothing
else changes. (R101; R105; R106; R107; R108) -/
def Obligations.AddAndSubtractSetOverflowAndCarry : Prop :=
  Int3Rule .add 3 (fun a b _ => a + b) (fun a b fl =>
      znvc fl (a + b) (overflows (a.toInt + b.toInt)) (decide (a.toNat + b.toNat ≥ 2 ^ 32))) ∧
    Int3Rule .sub 4 (fun a b _ => a - b) (fun a b fl =>
      znvc fl (a - b) (overflows (a.toInt - b.toInt)) (decide (b.toNat ≤ a.toNat))) ∧
    Int3Rule .addc 5 (fun a b fl => a + b + BitVec.ofNat 32 fl.c.toNat) (fun a b fl =>
      znvc fl (a + b + BitVec.ofNat 32 fl.c.toNat) (overflows (a.toInt + b.toInt + fl.c.toNat))
        (decide (a.toNat + b.toNat + fl.c.toNat ≥ 2 ^ 32))) ∧
    Int3Rule .subc 6 (fun a b fl => a - b - BitVec.ofNat 32 (!fl.c).toNat) (fun a b fl =>
      znvc fl (a - b - BitVec.ofNat 32 (!fl.c).toNat) (overflows (a.toInt - b.toInt - (!fl.c).toNat))
        (decide (b.toNat + (!fl.c).toNat ≤ a.toNat)))

/-- For every state and every operand form, the four multiplications (INT3 op 7 to 10) complete: mullo and mulslo give
the low word of the product, mulhi the high word of the 64-bit product of the zero-extended operands, mulshi that of the
sign-extended operands; Z and N follow from the result and nothing else changes. (R109; R110; R111; R112) -/
def Obligations.MultiplyInstructionsGiveTheirWords : Prop :=
  Int3Rule .mullo 7 (fun a b _ => a * b) (fun a b fl => zn fl (a * b)) ∧
    Int3Rule .mulhi 8 (fun a b _ => (a.setWidth 64 * b.setWidth 64).extractLsb' 32 32)
      (fun a b fl => zn fl ((a.setWidth 64 * b.setWidth 64).extractLsb' 32 32)) ∧
    Int3Rule .mulslo 9 (fun a b _ => a * b) (fun a b fl => zn fl (a * b)) ∧
    Int3Rule .mulshi 10 (fun a b _ => (a.signExtend 64 * b.signExtend 64).extractLsb' 32 32)
      (fun a b fl => zn fl ((a.signExtend 64 * b.signExtend 64).extractLsb' 32 32))

/-- For every state and every operand form, the four divisions (INT3 op 11 to 14) complete without a trap: a zero
divisor gives result 0 and V = 1; otherwise div and mod are unsigned, divs rounds toward zero (-2^31 by -1 gives
0x80000000 and V = 1), mods has the sign of the dividend, and V = 0; Z and N follow from the result, C stays, and
nothing else changes. (R113; R114; R115; R116; R117) -/
def Obligations.DivideInstructionsGiveQuotientsAndRemainders : Prop :=
  Int3Rule .div 11 (fun a b _ => if b = 0 then 0 else a / b)
      (fun a b fl => znv fl (if b = 0 then 0 else a / b) (decide (b = 0))) ∧
    Int3Rule .divs 12 (fun a b _ => if b = 0 then 0 else a.sdiv b)
      (fun a b fl => znv fl (if b = 0 then 0 else a.sdiv b) (decide (b = 0 ∨ (a = 0x80000000 ∧ b = 0xFFFFFFFF)))) ∧
    Int3Rule .mod 13 (fun a b _ => if b = 0 then 0 else a % b)
      (fun a b fl => znv fl (if b = 0 then 0 else a % b) (decide (b = 0))) ∧
    Int3Rule .mods 14 (fun a b _ => if b = 0 then 0 else a.srem b)
      (fun a b fl => znv fl (if b = 0 then 0 else a.srem b) (decide (b = 0)))

/-- ld is INT2 op 0 in register mode. Where the address in Y is memory that holds v, ld completes: X (a jump if it is
pc) receives v, Z and N follow from v, and nothing else changes, no byte of memory among it. (R122) -/
def Obligations.LoadWordReadsMemory : Prop :=
  ∀ (x y : Reg) (s : State) (v : Word), EncodesAs (.ld x y) 31 26 16 ∧ EncodesAs (.ld x y) 20 20 0 ∧
    (Readable s (s.readReg y) v → GivesReg (exec (.ld x y) s) s x v (zn s.flags v))

/-- st is INT2 op 1 in register mode. Where the address in Y admits a store, st completes: the word at that address
holds the old value of X, every byte outside that word reads as before, and no register and no flag changes. (R123) -/
def Obligations.StoreWordWritesOneWord : Prop :=
  ∀ (x y : Reg) (s : State), EncodesAs (.st x y) 31 26 17 ∧ EncodesAs (.st x y) 20 20 0 ∧
    (Storable s (s.readReg y) → ∃ t, exec (.st x y) s = .next t ∧
      Changes s t [] s.flags [] [(s.readReg y, s.readReg x)] 0)

/-- cp, cmp and bit are INT2 op 2, 3, 4 in register mode and always complete. cp X, Y writes X to register Y (a jump if
it is pc) and no flag; cmp sets Z if the operands are equal and N if Y > X as signed numbers; bit sets Z and N as and
would; V, C and everything else stay. (R124; R125; R126) -/
def Obligations.CopyCompareAndBitTestGiveTheirResults : Prop :=
  ∀ (x y : Reg) (s : State),
    EncodesAs (.cp x y) 31 26 18 ∧ EncodesAs (.cp x y) 20 20 0 ∧ GivesReg (exec (.cp x y) s) s y (s.readReg x) s.flags ∧
    EncodesAs (.cmp x y) 31 26 19 ∧ EncodesAs (.cmp x y) 20 20 0 ∧
    GivesFlags (exec (.cmp x y) s) s { s.flags with
      z := decide (s.readReg x = s.readReg y), n := decide ((s.readReg y).toInt > (s.readReg x).toInt) } ∧
    EncodesAs (.bit x y) 31 26 20 ∧ EncodesAs (.bit x y) 20 20 0 ∧
    GivesFlags (exec (.bit x y) s) s (zn s.flags (s.readReg x &&& s.readReg y))

/-- For every state and every count form, asl, shl (INT2 op 5, 7) and rol (op 9) complete: X is replaced by its old
value shifted or rotated left by the count n; V says that some bit of v[31:32-n] is 1, C is v[32-n], both 0 for n = 0; Z
and N follow from the result and nothing else changes. (R128; R130; R132) -/
def Obligations.LeftShiftsAndRotationSetOverflowAndCarry : Prop :=
  ShiftRule .asl 5 (fun v n => v <<< n) anyLeft lastLeft ∧ ShiftRule .shl 7 (fun v n => v <<< n) anyLeft lastLeft ∧
    ShiftRule .rol 9 (fun v n => v.rotateLeft n) anyLeft lastLeft

/-- For every state and every count form, asr, shr (INT2 op 6, 8) and ror (op 10) complete: X is replaced by its old
value shifted right (copies of the sign, or zeros, entering) or rotated right by the count n; V says that some bit of
v[n-1:0] is 1, C is v[n-1], both 0 for n = 0; Z and N follow from the result and nothing else changes. (R129; R131;
R133) -/
def Obligations.RightShiftsAndRotationSetOverflowAndCarry : Prop :=
  ShiftRule .asr 6 (fun v n => v.sshiftRight n) anyRight lastRight ∧
    ShiftRule .shr 8 (fun v n => v >>> n) anyRight lastRight ∧
    ShiftRule .ror 10 (fun v n => v.rotateRight n) anyRight lastRight

/-- push and pop are INT1 op 0 and 1 in register mode. Where the word below the current mode's stack pointer admits a
store, push completes: sp falls by 1, the word there holds the value X had before, every byte outside it reads as
before, and no flag changes. Where the word at sp is memory holding v, pop completes: sp rises by 1, then X receives v
(so pop %sp leaves v), Z and N follow from v, and memory reads as before. (R141; R142) -/
def Obligations.PushAndPopMoveOneWord : Prop :=
  ∀ (x : Reg) (s : State),
    EncodesAs (.push x) 31 22 128 ∧ EncodesAs (.pop x) 31 22 130 ∧
    (Storable s (s.readReg 30 - 1) → ∃ t, exec (.push x) s = .next t ∧ t.readReg 30 = s.readReg 30 - 1 ∧
      Changes s t [30] s.flags [] [(s.readReg 30 - 1, s.readReg x)] 0) ∧
    (∀ v, Readable s (s.readReg 30) v → ∃ t, exec (.pop x) s = .next t ∧ t.readReg x = v ∧
      (x ≠ 30 → t.readReg 30 = s.readReg 30 + 1) ∧ Changes s t [30, x] (zn s.flags v) [] [] 0)

/-- For every state and register, nor, neg, clr, set, inc, dec (INT1 op 2 to 7, register mode) complete: X (a jump if it
is pc) receives its complement, its negation, 0, all ones, one more, one less; nor sets Z and N; neg, inc, dec set Z, N
and V for the one value that overflows; clr and set write no flag; C and everything else stay. (R143; R144; R145; R146;
R147; R148) -/
def Obligations.OneRegisterInstructionsReplaceTheirOperand : Prop :=
  Int1Rule .nor 2 (fun v => ~~~v) (fun v fl => zn fl (~~~v)) ∧
    Int1Rule .neg 3 (fun v => -v) (fun v fl => znv fl (-v) (decide (v = 0x80000000))) ∧
    Int1Rule .clr 4 (fun _ => 0) (fun _ fl => fl) ∧ Int1Rule .set 5 (fun _ => BitVec.allOnes 32) (fun _ fl => fl) ∧
    Int1Rule .inc 6 (fun v => v + 1) (fun v fl => znv fl (v + 1) (decide (v = 0x7FFFFFFF))) ∧
    Int1Rule .dec 7 (fun v => v - 1) (fun v fl => znv fl (v - 1) (decide (v = 0x80000000)))

/-- For every state and operand form, beq to bcs (INT1 op 8 to 18) and jmp (op 34) complete. A branch whose condition
holds on the flags in force sets pc to the target (the register, or the next address plus the literal) and changes
nothing else; one whose condition fails changes nothing; jmp always sets pc and changes nothing else. (R149; R150; R151,
R152; R153; R154; R155; R156; R157; R158, R159; R160, R161; R179) -/
def Obligations.IntegerBranchesAndJumpGoToTheirTargets : Prop :=
  BranchRule .beq 8 (fun fl => fl.z) ∧
    BranchRule .bne 9 (fun fl => !fl.z) ∧
    BranchRule .bgt 10 (fun fl => !fl.z && fl.n) ∧
    BranchRule .blt 11 (fun fl => !fl.z && !fl.n) ∧
    BranchRule .bge 12 (fun fl => fl.z || fl.n) ∧
    BranchRule .bpl 13 (fun fl => !fl.n) ∧
    BranchRule .bmi 14 (fun fl => fl.n) ∧
    BranchRule .bvc 15 (fun fl => !fl.v) ∧
    BranchRule .bvs 16 (fun fl => fl.v) ∧
    BranchRule .bcc 17 (fun fl => !fl.c) ∧
    BranchRule .bcs 18 (fun fl => fl.c) ∧
    (∀ (x : Target) (s : State), EncodesAs (.jmp x) 31 23 98 ∧ exec (.jmp x) s = .next { s with pc := s.targetAddr x })

/-- For every state and operand form, bfeq to bfndn (INT1 op 19 to 33) complete: a branch whose condition holds on the F
flags in force sets pc to the target and changes nothing else; one whose condition fails changes nothing. (R149; R162,
R163; R164; R165; R166; R167, R168; R169, R170; R171, R172; R173; R174; R175; R176) -/
def Obligations.FloatBranchesGoToTheirTargets : Prop :=
  BranchRule .bfeq 19 (fun fl => fl.fz) ∧
    BranchRule .bfne 20 (fun fl => !fl.fz) ∧
    BranchRule .bfgt 21 (fun fl => !fl.fz && fl.fn) ∧
    BranchRule .bflt 22 (fun fl => !fl.fz && !fl.fn) ∧
    BranchRule .bfge 23 (fun fl => fl.fz || fl.fn) ∧
    BranchRule .bfpl 24 (fun fl => !fl.fn) ∧
    BranchRule .bfmi 25 (fun fl => fl.fn) ∧
    BranchRule .bfinf 26 (fun fl => fl.finf) ∧
    BranchRule .bfninf 27 (fun fl => !fl.finf) ∧
    BranchRule .bfnnf 28 (fun fl => fl.fnnf) ∧
    BranchRule .bfnnnf 29 (fun fl => !fl.fnnf) ∧
    BranchRule .bfnan 30 (fun fl => fl.fnan) ∧
    BranchRule .bfnnan 31 (fun fl => !fl.fnan) ∧
    BranchRule .bfdn 32 (fun fl => fl.fdn) ∧
    BranchRule .bfndn 33 (fun fl => !fl.fdn)

/-- call is INT1 op 35, register or literal mode. Where the nine words below SSP admit stores, call completes in either
mode: they hold %d0 (highest) to %d7 and the status word (lowest), every other byte of memory reads as before, SSP falls
by 9, %d0 to %d7 are 0, the ten flags in force are 0 and S stays, %lr receives the next address, pc the target computed
before any of this, and no other register changes. (R180) -/
def Obligations.CallSavesAndClearsTheDataRegisters : Prop :=
  ∀ (x : Target) (s : State), EncodesAs (.call x) 31 23 99 ∧
    ((∀ p ∈ callFrame s, Storable s p.1) → ∃ t, exec (.call x) s = .next t ∧
      t.pc = s.targetAddr x ∧ t.readReg 15 = s.pc ∧ t.ssp = s.ssp - 9 ∧
      (∀ k : Reg, k.val ∈ dataNumbers → t.readReg k = 0) ∧
      OnlyBanks s t (if s.mode = .user then 15 :: dataNumbers else [])
        (30 :: if s.mode = .supervisor then 15 :: dataNumbers else []) ∧
      FlagsBecome s t Flags.clear ∧ OnlyF s t [] ∧ Stores s t (callFrame s) ∧ t.draws = s.draws ∧
      SameControl s t ∧ SameRest s t)

/-- For every state and registers, the five FP3 instructions (op 0 to 4) complete: H receives the sum, difference F - G,
product, quotient F / G, or the uninterpreted arctangent of the two patterns; where the result is a NaN, H holds some
NaN, of which nothing more is known; the six F flags follow from what H holds; nothing else changes. That the numerics
are those of IEEE 754 is FiniteFloatArithmeticIsRoundedToNearest and FloatArithmeticOnSpecialOperands. (43_fp3.md R193
to R198; 93_implementation_defined.md U8, U11) -/
def Obligations.FloatArithmeticWritesItsResult : Prop :=
  Fp3Rule .fadd 0 fpAdd ∧ Fp3Rule .fsub 1 fpSub ∧ Fp3Rule .fmul 2 fpMul ∧ Fp3Rule .fdiv 3 fpDiv ∧
    Fp3Rule .fatan 4 (fun a b => some (Config.fpAtan a b))

/-- For every state and registers, fsqrt, fsin, fcos, flog, fexp (FP2 op 5 to 9) complete: G receives the square root,
or the uninterpreted function of the operand's pattern; where fsqrt gives a NaN, G holds some NaN; the six F flags
follow from what G holds; nothing else changes. (44_fp2.md R211 to R215; 93_implementation_defined.md U8, U11) -/
def Obligations.FloatUnaryWritesItsResult : Prop :=
  Fp2Rule .fsqrt 5 fpSqrt ∧ Fp2Rule .fsin 6 (fun a => some (Config.fpSin a)) ∧
    Fp2Rule .fcos 7 (fun a => some (Config.fpCos a)) ∧ Fp2Rule .flog 8 (fun a => some (Config.fpLog2p1 a)) ∧
    Fp2Rule .fexp 9 (fun a => some (Config.fpExp2m1 a))

/-- ld X, G and st X, G are FP2 op 0 and 1. Where the words at X and X + 1 are memory holding p and q, ld completes: G
receives p ++ q. Where both addresses admit stores, st completes: they hold bits 63:32 and 31:0 of G, and every other
byte reads as before. Both set the six F flags from the 64-bit value; nothing else changes. (R206; R207) -/
def Obligations.FloatLoadAndStoreMoveTwoWords : Prop :=
  ∀ (x : Reg) (g : FReg) (s : State), EncodesAs (.fld x g) 31 22 80 ∧ EncodesAs (.fst x g) 31 22 81 ∧
    (∀ p q, Readable s (s.readReg x) p → Readable s (s.readReg x + 1) q →
      GivesF (exec (.fld x g) s) s g (p ++ q) (allF s.flags (p ++ q))) ∧
    (Storable s (s.readReg x) → Storable s (s.readReg x + 1) → ∃ t, exec (.fst x g) s = .next t ∧
      Changes s t [] (allF s.flags (s.readF g)) []
        [(s.readReg x, (s.readF g).extractLsb' 32 32), (s.readReg x + 1, (s.readF g).extractLsb' 0 32)] 0)

/-- push F and pop F are FP1 op 1 and 2. Where the two words below the current mode's sp admit stores, push F completes:
sp falls by 2, memory[sp] and memory[sp + 1] hold bits 63:32 and 31:0 of F, every other byte reads as before, no flag
changes. Where the two words at sp are memory holding p and q, pop F completes: F receives p ++ q, sp rises by 2, the
six F flags follow, memory reads as before. (R226; R227) -/
def Obligations.FloatPushAndPopMoveTwoWords : Prop :=
  ∀ (f : FReg) (s : State), EncodesAs (.fpush f) 31 22 73 ∧ EncodesAs (.fpop f) 31 22 74 ∧
    (Storable s (s.readReg 30 - 2) → Storable s (s.readReg 30 - 1) → ∃ t, exec (.fpush f) s = .next t ∧
      t.readReg 30 = s.readReg 30 - 2 ∧
      Changes s t [30] s.flags []
        [(s.readReg 30 - 2, (s.readF f).extractLsb' 32 32), (s.readReg 30 - 1, (s.readF f).extractLsb' 0 32)] 0) ∧
    (∀ p q, Readable s (s.readReg 30) p → Readable s (s.readReg 30 + 1) q → ∃ t, exec (.fpop f) s = .next t ∧
      t.readF f = p ++ q ∧ t.readReg 30 = s.readReg 30 + 2 ∧ Changes s t [30] (allF s.flags (p ++ q)) [f] [] 0)

/-- These always complete. cp F, G (FP2 op 2) copies the 64 bits; fneg and fabs (FP1 op 3, 4) invert and clear bit 63;
all three set the six F flags from the result. clr F (FP1 op 0) gives +0.0 and writes FZ only. fpi and fe (op 5, 6) give
0x400921FB54442D18 and 0x4005BF0A8B145769 and write no flag. Nothing else changes. The two clauses for fpi and fe are
PRESUMED (log entry 27): R231 and R232 mark the two patterns as general knowledge, not in the source. (44_fp2.md R208;
45_fp1.md R228 to R232; log entry 27) -/
def Obligations.FloatMovesAndConstantsGiveTheirPatterns : Prop :=
  (∀ (f g : FReg) (s : State), EncodesAs (.fcp f g) 31 22 82 ∧
      GivesF (exec (.fcp f g) s) s g (s.readF f) (allF s.flags (s.readF f))) ∧
    Fp1Rule .fneg 3 (fun d => d ^^^ 0x8000000000000000) allF ∧
    Fp1Rule .fabs 4 (fun d => d &&& 0x7FFFFFFFFFFFFFFF) allF ∧
    Fp1Rule .fclr 0 (fun _ => 0) (fun fl _ => { fl with fz := true }) ∧
    Fp1Rule .fpi 5 (fun _ => 0x400921FB54442D18) (fun fl _ => fl) ∧
    Fp1Rule .fe 6 (fun _ => 0x4005BF0A8B145769) (fun fl _ => fl)

/-- fitof and fftoi are FP2 op 3 and 4 and always complete. fitof gives a finite number whose value is exactly the
signed integer (+0.0 for 0), writes FZ and FN from the integer, and changes nothing else. fftoi of a finite value that
truncates toward zero into -2^31 .. 2^31 - 1 writes that integer to Y with V = 0; of every other operand it writes V = 1
and some word r of which nothing is known; Z and N follow from the word written, and nothing else changes. That fitof is
exact is the default numerics, PRESUMED (log entry 17; R209 marks it as general knowledge). That the word of an operand
out of range is a draw, and that one draw is counted, is the model's choice (log entries 12 and 13). (44_fp2.md R209,
R210; 93_implementation_defined.md U6; log entries 12, 13 and 17) -/
def Obligations.ConversionsAreExactAndWriteTheirFlags : Prop :=
  (∀ (x : Reg) (g : FReg) (s : State), EncodesAs (.fitof x g) 31 22 83 ∧
      ∃ d, FinitePattern d ∧ fVal d = ((s.readReg x).toInt : ℚ) ∧ (s.readReg x = 0 → d = 0) ∧
        GivesF (exec (.fitof x g) s) s g d { s.flags with
          fz := decide (s.readReg x = 0), fn := decide ((s.readReg x).toInt < 0) }) ∧
    (∀ (f : FReg) (y : Reg) (s : State), EncodesAs (.fftoi f y) 31 22 84 ∧
      (FinitePattern (s.readF f) ∧ -2 ^ 31 ≤ truncRat (fVal (s.readF f)) ∧ truncRat (fVal (s.readF f)) ≤ 2 ^ 31 - 1 →
        GivesReg (exec (.fftoi f y) s) s y (BitVec.ofInt 32 (truncRat (fVal (s.readF f))))
          (znv s.flags (BitVec.ofInt 32 (truncRat (fVal (s.readF f)))) false)) ∧
      (¬ (FinitePattern (s.readF f) ∧ -2 ^ 31 ≤ truncRat (fVal (s.readF f)) ∧
          truncRat (fVal (s.readF f)) ≤ 2 ^ 31 - 1) →
        ∃ t r, exec (.fftoi f y) s = .next t ∧ t.readReg y = r ∧ Changes s t [y] (znv s.flags r true) [] [] 1))

/-- fcmp is FP2 op 10 and always completes, writing only FZ, FN and FNAN: FNAN says that either operand is a NaN;
otherwise FZ says that the two values are equal (+0 and -0 are) and FN that G > F, infinities included; with a NaN, FZ
and FN are 0. (R216) -/
def Obligations.FloatCompareOrdersValues : Prop :=
  ∀ (f g : FReg) (s : State), EncodesAs (.fcmp f g) 31 22 90 ∧
    ∃ t, exec (.fcmp f g) s = .next t ∧
      (t.flags.fnan = true ↔ NanPattern (s.readF f) ∨ NanPattern (s.readF g)) ∧
      (t.flags.fz = true ↔ ¬ NanPattern (s.readF f) ∧ ¬ NanPattern (s.readF g) ∧ fExt (s.readF f) = fExt (s.readF g)) ∧
      (t.flags.fn = true ↔ ¬ NanPattern (s.readF f) ∧ ¬ NanPattern (s.readF g) ∧ fExt (s.readF f) < fExt (s.readF g)) ∧
      Changes s t [] { s.flags with fz := t.flags.fz, fn := t.flags.fn, fnan := t.flags.fnan } [] [] 0

/-- SetAllF(d) sets FNAN, FINF, FNNF, FZ, FN and FDN exactly as R192 lists them and leaves Z, N, V and C; two different
ones of the six can be 1 together only as the pairs (FN, FNNF) and (FN, FDN). (R192) -/
def Obligations.ClassFlagsFollowThePattern : Prop :=
  ∀ (fl : Flags) (d : Word64), fl.setAllF d = allF fl d ∧
    (let r := fl.setAllF d
     (r.fz = true → r.fn = false ∧ r.finf = false ∧ r.fnnf = false ∧ r.fnan = false ∧ r.fdn = false) ∧
     (r.finf = true → r.fn = false ∧ r.fnnf = false ∧ r.fnan = false ∧ r.fdn = false) ∧
     (r.fnan = true → r.fn = false ∧ r.fnnf = false ∧ r.fdn = false) ∧ (r.fnnf = true → r.fdn = false))

/-- nop is ZERO op 0 with the all-zero word as its canonical form, the SIMD-space nop is the single word 0x11000000, and
both complete with no change (pc has advanced already). That the SIMD-space word executes is the model's choice (log
entry 20, DEDUCED): R240 says that it is a no-operation, and R240 and U3 let a model refuse it. (46_simd.md R240;
47_zero_operand.md R246; 93_implementation_defined.md U3; log entry 20) -/
def Obligations.NopInstructionsChangeNothing : Prop :=
  encode .nop = 0x00000000 ∧ encode .simdNop = 0x11000000 ∧ EncodesAs .nop 31 23 0 ∧
    (∀ w, decode w = .ok .simdNop ↔ w = 0x11000000) ∧
    ∀ s : State, exec .nop s = .next s ∧ exec .simdNop s = .next s

/-- pushs and pops are ZERO op 1 and 2. Where the word below the current mode's sp admits a store, pushs completes: sp
falls by 1, the word holds StWord(mode), every other byte reads as before and no flag changes. Where the word at sp is
memory holding w, pops completes: sp rises by 1, the ten flags in force become bits 0 to 9 of w, the mode (S) stays, and
memory reads as before. (R247; R248) -/
def Obligations.StatusPushAndPopUseTheCurrentStack : Prop :=
  ∀ s : State, EncodesAs .pushs 31 23 1 ∧ EncodesAs .pops 31 23 2 ∧
    (Storable s (s.readReg 30 - 1) → ∃ t, exec .pushs s = .next t ∧ t.readReg 30 = s.readReg 30 - 1 ∧
      Changes s t [30] s.flags [] [(s.readReg 30 - 1, stWord s.mode s.flags)] 0) ∧
    (∀ w, Readable s (s.readReg 30) w → ∃ t, exec .pops s = .next t ∧ t.readReg 30 = s.readReg 30 + 1 ∧
      Changes s t [30] ⟨w.getLsbD 0, w.getLsbD 1, w.getLsbD 2, w.getLsbD 3, w.getLsbD 4, w.getLsbD 5, w.getLsbD 6,
        w.getLsbD 7, w.getLsbD 8, w.getLsbD 9⟩ [] [] 0)

/-- For every state, clrz, clrn, clrc, clrv, setz, setn, setc, setv (ZERO op 3 to 10) complete: the one flag in force is
cleared or set, and nothing else changes. (R249; R250; R251; R252; R253; R254; R255; R256) -/
def Obligations.FlagInstructionsWriteOneFlag : Prop :=
  FlagRule .clrz 3 (fun fl => { fl with z := false }) ∧
    FlagRule .clrn 4 (fun fl => { fl with n := false }) ∧
    FlagRule .clrc 5 (fun fl => { fl with c := false }) ∧
    FlagRule .clrv 6 (fun fl => { fl with v := false }) ∧
    FlagRule .setz 7 (fun fl => { fl with z := true }) ∧
    FlagRule .setn 8 (fun fl => { fl with n := true }) ∧
    FlagRule .setc 9 (fun fl => { fl with c := true }) ∧
    FlagRule .setv 10 (fun fl => { fl with v := true })

/-- jsr and rts are ZERO op 11 and 12 and always complete. jsr puts the next address in the current mode's %lr and goes
to the address %lr held; rts goes to the address in %lr and leaves it. No flag, no other register and no byte of memory
changes. (R260; R261) -/
def Obligations.SubroutineInstructionsUseTheLinkRegister : Prop :=
  ∀ s : State, EncodesAs .jsr 31 23 11 ∧ EncodesAs .rts 31 23 12 ∧
    (∃ t, exec .jsr s = .next t ∧ t.pc = s.readReg 15 ∧ t.readReg 15 = s.pc ∧ Changes s t [15, 31] s.flags [] [] 0) ∧
    (∃ t, exec .rts s = .next t ∧ t.pc = s.readReg 15 ∧ Changes s t [31] s.flags [] [] 0)

/-- ret is ZERO op 13. Where the nine words from SSP up are memory holding w and d 0 .. d 7, ret completes in either
mode: the ten flags in force become those of w and S stays, %d7 receives d 0, down to %d0, which receives d 7, SSP rises
by 9, pc receives %lr, no other register changes, and memory reads as before. (R262) -/
def Obligations.RetPopsTheCallFrame : Prop :=
  ∀ (s : State) (w : Word) (d : Nat → Word), EncodesAs .ret 31 23 13 ∧
    (Readable s s.ssp w → (∀ j < 8, Readable s (s.ssp + BitVec.ofNat 32 (j + 1)) (d j)) → ∃ t, exec .ret s = .next t ∧
      t.pc = s.readReg 15 ∧ t.ssp = s.ssp + 9 ∧
      t.readReg 23 = d 0 ∧ t.readReg 22 = d 1 ∧ t.readReg 21 = d 2 ∧ t.readReg 20 = d 3 ∧
      t.readReg 19 = d 4 ∧ t.readReg 18 = d 5 ∧ t.readReg 17 = d 6 ∧ t.readReg 16 = d 7 ∧
      OnlyBanks s t (if s.mode = .user then dataNumbers else []) (30 :: if s.mode = .supervisor then dataNumbers else []) ∧
      FlagsBecome s t (flagsOfWord w) ∧ OnlyF s t [] ∧ Stores s t [] ∧ t.draws = s.draws ∧ SameControl s t ∧ SameRest s t)

/-- rti and user are ZERO op 14 and 19. In either mode rti completes: pc receives the current mode's %lr and the mode
becomes user (in user mode it stays user). In supervisor mode user completes the same way: pc receives xs[15] and the
mode becomes user. No register of either bank, no flag of either status register, and no byte of memory changes. (R263;
R268) -/
def Obligations.ReturnInstructionsEnterUserMode : Prop :=
  ∀ s : State, EncodesAs .rti 31 23 14 ∧ EncodesAs .user 31 23 19 ∧
    exec .rti s = .next { s with pc := s.readReg 15, mode := .user } ∧
    (s.mode = .supervisor → exec .user s = .next { s with pc := s.xs[15], mode := .user })

/-- int is ZERO op 15 with N in bits 22:15. For N in 0..255 it completes in either mode: xs[0..7] receive x[0..7] (no
change in supervisor mode), N is appended to the buffer or dropped if 256 entries are there, and nothing else changes:
pc, the mode, the user bank, the flags, memory and the rest are as before. In user mode with nothing pending, the next
step then delivers N: xs[15] receives the address after the int, the mode becomes supervisor and pc VEC(N). (R264) -/
def Obligations.IntCopiesArgumentsAndQueuesTheNumber : Prop :=
  ∀ (n : Nat) (s : State), n < 256 →
    EncodesAs (.int n) 31 23 15 ∧ EncodesAs (.int n) 22 15 n ∧
    ∃ t, exec (.int n) s = .next t ∧ (∀ k (h : k < 8), t.xs[k] = s.bank[k]) ∧
      t = { s with xs := t.xs, ibuf := if s.ibuf.length < 256 then s.ibuf ++ [BitVec.ofNat 8 n] else s.ibuf } ∧
      (∀ k (h : k < 31), 8 ≤ k → t.xs[k] = s.xs[k]) ∧ (s.mode = .supervisor → t.xs = s.xs) ∧
      (s.mode = .user → s.ibuf = [] → ∃ u, step t = .next u ∧ u.mode = .supervisor ∧ u.xs = t.xs.set 15 s.pc ∧
        u.pc = s.vecOf (BitVec.ofNat 8 n) ∧ u.xu = s.xu ∧ u.stu = s.stu ∧ u.sts = s.sts ∧ u.mem = s.mem)

/-- stop is ZERO op 16 and always completes, changing stopped alone. While the buffer is empty a step of the stopped
core changes nothing but what arrives. Once it is not empty, in user mode the step delivers the oldest entry with pc
saved in xs[15]; in supervisor mode the step wakes the core and executes the instruction at pc, the entry staying in the
buffer. That a step of the stopped core with an empty buffer answers a next state is the model's choice (log entry 22):
R40 clause (1) says that there is no step. These clauses take an empty schedule of arrivals; StepWaitsOrDelivers says
the general case. (47_zero_operand.md R265; 60_exceptions.md R300; 10_state.md R40; log entry 22) -/
def Obligations.StopWaitsForTheNextInterrupt : Prop :=
  ∀ s : State, EncodesAs .stop 31 23 16 ∧ exec .stop s = .next { s with stopped := true } ∧
    (s.stopped = true → s.extIrq = [] →
      (s.ibuf = [] → step s = .next s) ∧
      (∀ n rest, s.mode = .user → s.ibuf = n :: rest → step s = .next { s with
        ibuf := rest, xs := s.xs.set 15 s.pc, mode := .supervisor, pc := s.vecOf n, stopped := false }) ∧
      (s.mode = .supervisor → s.ibuf ≠ [] → step s = step { s with stopped := false }))

/-- pushu is ZERO op 17. In supervisor mode, where the thirty-two words below SSP admit stores, it completes: they hold
xu[0] (highest) to xu[30] and the user status word (lowest), every other byte reads as before, SSP falls by 32, xs[15]
holds some word of which nothing is known, and no other register and no flag changes. (R266) -/
def Obligations.PushuSavesTheUserContext : Prop :=
  ∀ s : State, EncodesAs .pushu 31 23 17 ∧
    (s.mode = .supervisor → (∀ p ∈ pushuFrame s, Storable s p.1) → ∃ t, exec .pushu s = .next t ∧
      t.ssp = s.ssp - 32 ∧ OnlyBanks s t [] [15, 30] ∧ t.pc = s.pc ∧ t.stu = s.stu ∧ t.sts = s.sts ∧ OnlyF s t [] ∧
      Stores s t (pushuFrame s) ∧ t.draws = s.draws + 1 ∧ SameControl s t ∧ SameRest s t)

/-- popu is ZERO op 18. In supervisor mode, where the thirty-two words from SSP up are memory holding w and d 0 .. d 30,
it completes: the ten user flags become those of w, xu[30 - j] receives d j, SSP rises by 32, no other register of the
supervisor bank changes (xs[15] among them), pc, the supervisor flags and everything else stay, and memory reads as
before. (R267) -/
def Obligations.PopuLoadsTheUserContext : Prop :=
  ∀ (s : State) (w : Word) (d : Nat → Word), EncodesAs .popu 31 23 18 ∧
    (s.mode = .supervisor → Readable s s.ssp w →
      (∀ j < 31, Readable s (s.ssp + BitVec.ofNat 32 (j + 1)) (d j)) → ∃ t, exec .popu s = .next t ∧
      t.stu = flagsOfWord w ∧ (∀ k (h : k < 31), t.xu[k] = d (30 - k)) ∧ t.ssp = s.ssp + 32 ∧
      (∀ k (h : k < 31), k ≠ 30 → t.xs[k] = s.xs[k]) ∧ t.pc = s.pc ∧ t.sts = s.sts ∧ OnlyF s t [] ∧ Stores s t [] ∧
      t.draws = s.draws ∧ SameControl s t ∧ SameRest s t)

/-- In user mode pushu, popu and user answer the refusal supervisorOnly, whatever the rest of the state is. That every
other instruction may be executed in either mode is said by its own statement. (47_zero_operand.md R257;
93_implementation_defined.md U2) -/
def Obligations.SupervisorOnlyInstructionsRefusedInUserMode : Prop :=
  ∀ s : State, s.mode = .user →
    exec .pushu s = .refused .supervisorOnly ∧ exec .popu s = .refused .supervisorOnly ∧
    exec .user s = .refused .supervisorOnly

/-- A read or write at an address the map leaves out faults, one at a device address is refused, and a read of a memory
word nothing has written faults (the fault for an unwritten word is the reading of R42 that log entry 6 names).
(20_memory.md R59, R60; 10_state.md R42 (of which the memory words); log entries 6 and 21) -/
def Obligations.AccessOutsideWrittenMemoryStops : Prop :=
  ∀ (s : State) (a v : Word),
    (kindAt s.memMap a = none → s.readMem a = .fault .absentAddress ∧ s.writeMem a v = .fault .absentAddress) ∧
    (kindAt s.memMap a = some .device → s.readMem a = .refused .deviceAccess ∧ s.writeMem a v = .refused .deviceAccess) ∧
    (kindAt s.memMap a = some .memory → s.mem.readWord a = none → s.readMem a = .fault .unwrittenMemory)

/-- For every well-formed instruction, with every operand at every value its encoding admits, decode (encode i) = i; and
every instruction that decode gives is well formed. (30_encoding.md R71 to R90) -/
def Obligations.DecodingUndoesEncoding : Prop :=
  (∀ i : Instr, i.wellFormed = true → decode (encode i) = .ok i) ∧
    (∀ (w : Word) (i : Instr), decode w = .ok i → i.wellFormed = true)

/-- A word is rejected as a reserved encoding exactly if it is one of R92's, and as a reserved operand form exactly if
it is one of R93's; a step that executes and fetches such a word is refused under that name. (R92; R93) -/
def Obligations.ReservedWordsAreExactlyThoseListed : Prop :=
  (∀ w, decode w = .error .reservedEncoding ↔ ReservedWord w) ∧
    (∀ w, decode w = .error .reservedOperandForm ↔ ReservedForm w) ∧
    (∀ s w, Executes s → Fetches s w → ReservedWord w → step s = .refused .reservedEncoding) ∧
    (∀ s w, Executes s → Fetches s w → ReservedForm w → step s = .refused .reservedOperandForm)

/-- If a word agrees with w on every bit that is not ignored in w (the fill fields, bits 20:10 of INT3 and 21:5 of INT1
in register mode, the top bit of an FP2 field that holds a floating-point register, n of every ZERO operation but int),
it decodes to the same instruction, or is rejected alike. (R91) -/
def Obligations.IgnoredBitsDoNotMatter : Prop :=
  ∀ w w' : Word, (∀ i < 32, ¬ Ignored w i → w'.getLsbD i = w.getLsbD i) → decode w' = decode w

/-- For every state s in which memory has its canonical form and the buffer holds at most 256 entries, whatever else it
holds, if step s answers next t then the same is true of t. (10_state.md R37; 20_memory.md R50; 60_exceptions.md R283)
-/
def Obligations.EveryStepKeepsTheInvariant : Prop :=
  ∀ s t : State, s.Inv → step s = .next t → t.Inv

/-- If step s answers next t, then the SIMD registers, MEMMAP and the fixed vectors of t are those of s, and the
environment's schedule has moved on by one entry. That the map and the vectors are fields of the state, and that the
schedule is a list of which each step takes one entry, are the model's choices (log entries 7, 8 and 9). (46_simd.md
R242; 20_memory.md R59; 60_exceptions.md R282, R286; log entries 7, 8 and 9) -/
def Obligations.StepsNeverChangePlatformOrSimdRegisters : Prop :=
  ∀ s t : State, step s = .next t →
    t.m = s.m ∧ t.memMap = s.memMap ∧ t.vectors = s.vectors ∧ t.extIrq = s.extIrq.tail

/-- If a step takes user mode to supervisor mode, it delivered the oldest pending entry n: xs[15] holds the old pc and
pc is VEC(n). If a step takes supervisor mode to user mode, the word at pc decodes to rti or user. (10_state.md R31;
60_exceptions.md R293) -/
def Obligations.ModeChangesOnlyByDeliveryRtiAndUser : Prop :=
  ∀ s t : State, step s = .next t →
    (s.mode = .user → t.mode = .supervisor →
      ∃ n rest, s.arriveBetween.ibuf = n :: rest ∧ t.xs[15] = s.pc ∧ t.pc = s.vecOf n) ∧
    (s.mode = .supervisor → t.mode = .user →
      ∃ w, s.mem.readWord s.pc = some w ∧ (decode w = .ok .rti ∨ decode w = .ok .user))

/-- If an instruction completes in user mode, the mode is still user, the supervisor flags are as before, and each
supervisor register is as before, but for xs[0..7] after int, which are the user's own, and SSP after call and ret,
which has moved by nine. (10_state.md R26; 60_exceptions.md R293) -/
def Obligations.UserCodeWritesNoSupervisorStateButByIntAndCall : Prop :=
  ∀ (i : Instr) (s t : State), s.mode = .user → exec i s = .next t →
    t.mode = .user ∧ t.sts = s.sts ∧
    ∀ k (h : k < 31), t.xs[k] = s.xs[k] ∨ ((∃ n, i = .int n) ∧ k < 8 ∧ t.xs[k] = s.xu[k]) ∨
      ((∃ x, i = .call x) ∧ k = 30 ∧ t.xs[k] = s.xs[k] - 9) ∨ (i = .ret ∧ k = 30 ∧ t.xs[k] = s.xs[k] + 9)

/-- Take a user-mode state twice, with any two supervisor banks and supervisor status registers in place of its own; for
call and ret the two banks have the same SSP. Then every instruction stops alike in both, or completes in both with
states that differ in the supervisor bank and status register alone. (10_state.md R26; 60_exceptions.md R293) -/
def Obligations.UserCodeReadsNoSupervisorRegisterButSsp : Prop :=
  ∀ (i : Instr) (s : State) (a b : Vector Word 31) (fa fb : Flags), s.mode = .user →
    (((∃ x, i = .call x) ∨ i = .ret) → a[30] = b[30]) →
    mapNext (fun t => t.withSupervisor a fa) (exec i (s.withSupervisor a fa)) =
      mapNext (fun t => t.withSupervisor a fa) (exec i (s.withSupervisor b fb))

/-- If call completes from s in t, then in every state u that has t's mode, memory, map, SSP and %lr (the callee may
have changed everything else: the data registers, the flags, pc), ret completes in a state where %d0 to %d7, the ten
flags and SSP are those of s before the call, pc is the address after the call, and every other register of the bank in
use but register 30 is as the callee left it. (The other bank, and register 30 in user mode, are in
RetPopsTheCallFrame.) (47_zero_operand.md R262; 42_int1_control.md R180) -/
def Obligations.RetUndoesCall : Prop :=
  ∀ (x : Target) (s t u : State), exec (.call x) s = .next t →
    u.mode = t.mode → u.mem = t.mem → u.memMap = t.memMap → u.ssp = t.ssp → u.readReg 15 = t.readReg 15 →
    ∃ v, exec .ret u = .next v ∧ v.pc = s.pc ∧ v.mode = s.mode ∧ v.flags = s.flags ∧ v.ssp = s.ssp ∧
      (∀ k : Reg, k.val ∈ dataNumbers → v.readReg k = s.readReg k) ∧
      (∀ k : Reg, k.val ∉ dataNumbers → k ≠ 30 → k ≠ 31 → v.readReg k = u.readReg k) ∧ v.mem = u.mem

/-- If pushu completes from s in t, then in every supervisor-mode state u with t's memory, map and SSP, popu completes
in a state whose user bank, user flags and SSP are those of s before the pushu, and whose pc and xs[15] are u's.
(47_zero_operand.md R266, R267) -/
def Obligations.PopuUndoesPushu : Prop :=
  ∀ s t u : State, exec .pushu s = .next t → u.mode = .supervisor → u.mem = t.mem → u.memMap = t.memMap → u.ssp = t.ssp →
    ∃ v, exec .popu u = .next v ∧ v.xu = s.xu ∧ v.stu = s.stu ∧ v.ssp = s.ssp ∧ v.pc = u.pc ∧ v.xs[15] = u.xs[15] ∧
      v.mode = .supervisor

/-- If a step from a user-mode state s delivers an interrupt and gives t, then t's user bank, user flags, floating-point
registers and memory are those of s; and in every supervisor-mode state u whose xs[15], user bank and user flags are
t's, rti completes in user mode at the pc of s, with every register of the user bank reading as in s and the flags in
force those of s. (60_exceptions.md R285, R289; 47_zero_operand.md R263) -/
def Obligations.RtiResumesTheInterruptedProgram : Prop :=
  ∀ s t u : State, s.mode = .user → s.arriveBetween.ibuf ≠ [] → step s = .next t →
    (t.xu = s.xu ∧ t.stu = s.stu ∧ t.f = s.f ∧ t.mem = s.mem) ∧
    (u.mode = .supervisor → u.xs[15] = t.xs[15] → u.xu = t.xu → u.stu = t.stu →
      ∃ v, exec .rti u = .next v ∧ v.mode = .user ∧ v.flags = s.flags ∧ ∀ k, v.readReg k = s.readReg k)

/-- If add gives the low word and then addc the high word, in destinations that are not pc and not a source of the
second, the two destinations hold the 64-bit sum and C is its carry; likewise sub then subc give the 64-bit difference
and C says that there is no borrow. (40_int3.md R101, R107, R108) -/
def Obligations.CarryChainsGiveWideSumsAndDifferences : Prop :=
  ∀ (xl xh yl yh zl zh : Reg) (s : State), zl ≠ 31 → zh ≠ 31 → zl ≠ zh → xh ≠ zl → yh ≠ zl →
    (∃ t u, exec (.add xl (.reg yl) zl) s = .next t ∧ exec (.addc xh (.reg yh) zh) t = .next u ∧
      u.readReg zh ++ u.readReg zl = (s.readReg xh ++ s.readReg xl) + (s.readReg yh ++ s.readReg yl) ∧
      (u.flags.c = true ↔ 2 ^ 64 ≤ (s.readReg xh ++ s.readReg xl).toNat + (s.readReg yh ++ s.readReg yl).toNat)) ∧
    (∃ t u, exec (.sub xl (.reg yl) zl) s = .next t ∧ exec (.subc xh (.reg yh) zh) t = .next u ∧
      u.readReg zh ++ u.readReg zl = (s.readReg xh ++ s.readReg xl) - (s.readReg yh ++ s.readReg yl) ∧
      (u.flags.c = true ↔ (s.readReg yh ++ s.readReg yl).toNat ≤ (s.readReg xh ++ s.readReg xl).toNat))

/-- For a divisor that is not 0: div and mod give q and r with a = b * q + r and r < b as unsigned numbers; divs and
mods give q and r with a = b * q + r, |r| < |b| and r of the sign of a (or 0) as signed numbers, but for the pair -2^31
and -1, where divs gives 0x80000000 with V = 1 and mods gives 0. (40_int3.md R118 (of which the division laws)) -/
def Obligations.QuotientAndRemainderRecomposeTheDividend : Prop :=
  ∀ (x : Reg) (y : Src) (z : Reg) (s : State), s.srcValue y ≠ 0 →
    (∃ t u, exec (.div x y z) s = .next t ∧ exec (.mod x y z) s = .next u ∧
      (s.readReg x).toNat = (s.srcValue y).toNat * (t.readReg z).toNat + (u.readReg z).toNat ∧
      (u.readReg z).toNat < (s.srcValue y).toNat) ∧
    (∃ t u, exec (.divs x y z) s = .next t ∧ exec (.mods x y z) s = .next u ∧
      (¬ (s.readReg x = 0x80000000 ∧ s.srcValue y = 0xFFFFFFFF) →
        (s.readReg x).toInt = (s.srcValue y).toInt * (t.readReg z).toInt + (u.readReg z).toInt) ∧
      (s.readReg x = 0x80000000 ∧ s.srcValue y = 0xFFFFFFFF →
        t.readReg z = 0x80000000 ∧ t.flags.v = true ∧ u.readReg z = 0) ∧
      (u.readReg z).toInt.natAbs < (s.srcValue y).toInt.natAbs ∧
      (u.readReg z = 0 ∨ ((u.readReg z).toInt < 0 ↔ (s.readReg x).toInt < 0)))

/-- If a store of v at a completes, then a reads v, every other address reads (or stops) as before, the store changes
nothing but memory and the record of stores, and two stores to different addresses give the same reads in either order.
(20_memory.md R53, R59 (of which memory), R64) -/
def Obligations.MemoryReadsBackTheLastWrite : Prop :=
  (∀ (s t : State) (a v : Word), s.writeMem a v = .next t →
      t.readMem a = .next v ∧ (∀ b, b ≠ a → t.readMem b = s.readMem b) ∧
      t = { s with mem := t.mem, storesLast := a :: s.storesLast }) ∧
    (∀ (m : Memory) (a b v w : Word), a ≠ b →
      ∀ k, ((m.writeWord a v).writeWord b w).readByte k = ((m.writeWord b w).writeWord a v).readByte k)

/-- For finite a and b (b not zero for a quotient, a positive for a root), each of the five gives a number: the exact
result rounded to nearest, ties to even, subnormals kept, where it is not zero; where it is zero, a zero of the sign
IEEE 754 gives (for a sum or difference +0 unless both terms have the sign -; for a product or quotient the product of
the signs). That the numerics are those of IEEE 754 is the spec's default of FPNUM, PRESUMED (log entry 17). (43_fp3.md
R191 (of which the default numerics), R194 to R197; 44_fp2.md R211; log entry 17) -/
def Obligations.FiniteFloatArithmeticIsRoundedToNearest : Prop :=
  ∀ a b : Word64, FinitePattern a → FinitePattern b →
    (∃ d, fpAdd a b = some d ∧ ((fVal a + fVal b : ℝ) ≠ 0 → Nearest (fVal a + fVal b) d) ∧
      ((fVal a + fVal b : ℝ) = 0 → d = if a.getLsbD 63 && b.getLsbD 63 then 0x8000000000000000 else 0)) ∧
    (∃ d, fpSub a b = some d ∧ ((fVal a - fVal b : ℝ) ≠ 0 → Nearest (fVal a - fVal b) d) ∧
      ((fVal a - fVal b : ℝ) = 0 → d = if a.getLsbD 63 && !b.getLsbD 63 then 0x8000000000000000 else 0)) ∧
    (∃ d, fpMul a b = some d ∧ ((fVal a * fVal b : ℝ) ≠ 0 → Nearest (fVal a * fVal b) d) ∧
      ((fVal a * fVal b : ℝ) = 0 → d = if a.getLsbD 63 != b.getLsbD 63 then 0x8000000000000000 else 0)) ∧
    (fVal b ≠ 0 → ∃ d, fpDiv a b = some d ∧ (fVal a ≠ 0 → Nearest (fVal a / fVal b) d) ∧
      (fVal a = 0 → d = if a.getLsbD 63 != b.getLsbD 63 then 0x8000000000000000 else 0)) ∧
    (0 < fVal a → ∃ d, fpSqrt a = some d ∧ Nearest (Real.sqrt (fVal a)) d)

/-- A NaN operand gives a NaN. Infinities: of opposite signs they add to a NaN, else a sum or difference with one is
that infinity; infinity times zero, infinity by infinity and zero by zero are NaNs; otherwise products and quotients
with infinities and quotients by zero are the infinity or zero of the product of the signs. The root of a zero is that
zero, of +infinity +infinity, of any other negative a NaN. These too are the numerics of the spec's default of FPNUM,
PRESUMED (log entry 17). (43_fp3.md R193 (of which the IEEE default results), R194 to R197; 44_fp2.md R211; log entry
17) -/
def Obligations.FloatArithmeticOnSpecialOperands : Prop :=
  ∀ a b : Word64,
    (NanPattern a ∨ NanPattern b → fpAdd a b = none ∧ fpSub a b = none ∧ fpMul a b = none ∧ fpDiv a b = none) ∧
    (NanPattern a → fpSqrt a = none) ∧
    (∀ sg sh : Bool, infOf sg = (if sg then 0xFFF0000000000000 else 0x7FF0000000000000) ∧
      fpAdd (infOf sg) (infOf sh) = (if sg = sh then some (infOf sg) else none) ∧
      fpSub (infOf sg) (infOf sh) = (if sg = sh then none else some (infOf sg)) ∧
      fpMul (infOf sg) (zeroOf sh) = none ∧ fpMul (zeroOf sh) (infOf sg) = none ∧
      fpDiv (infOf sg) (infOf sh) = none ∧ fpDiv (zeroOf sg) (zeroOf sh) = none) ∧
    (∀ sg : Bool, FinitePattern b → fpAdd (infOf sg) b = some (infOf sg) ∧ fpAdd b (infOf sg) = some (infOf sg) ∧
      fpSub (infOf sg) b = some (infOf sg) ∧ fpSub b (infOf sg) = some (infOf !sg) ∧
      fpDiv (infOf sg) b = some (infOf (sg != b.getLsbD 63)) ∧ fpDiv b (infOf sg) = some (zeroOf (sg != b.getLsbD 63)) ∧
      (fVal b ≠ 0 → fpMul (infOf sg) b = some (infOf (sg != b.getLsbD 63)) ∧
        fpMul b (infOf sg) = some (infOf (sg != b.getLsbD 63)) ∧
        fpDiv b (zeroOf sg) = some (infOf (sg != b.getLsbD 63)))) ∧
    (∀ sg sh : Bool, fpMul (infOf sg) (infOf sh) = some (infOf (sg != sh))) ∧
    (∀ sg : Bool, fpSqrt (zeroOf sg) = some (zeroOf sg)) ∧ fpSqrt (infOf false) = some (infOf false) ∧
    fpSqrt (infOf true) = none ∧ (FinitePattern a → fVal a < 0 → fpSqrt a = none)

/-- st to memory at the address after it or the next one is refused; more generally every store there is. A step that
executes and would fetch from an address the instruction before it stored to is refused, and so is the step after the
next: if two steps both execute instructions, a third may not fetch from an address the first of them stored to. A fetch
that none of the last two instructions stored to sees every earlier store: it reads the word memory holds. R67 lets a
model refuse such an access or fault it; that this model refuses, under the names storeIntoNextWords and staleFetch, and
knows the recent stores by its own fields storesLast and storesPrev, is its choice (log entry 11). (20_memory.md R67;
70_reset_and_hazards.md R319; log entry 11) -/
def Obligations.StoresIntoUpcomingInstructionsAreRefused : Prop :=
  (∀ (s : State) (a v : Word), kindAt s.memMap a = some .memory → (a = s.pc ∨ a = s.pc + 1) →
      s.writeMem a v = .refused .storeIntoNextWords) ∧
    (∀ (x y : Reg) (s : State), kindAt s.memMap (s.readReg y) = some .memory →
      (s.readReg y = s.pc ∨ s.readReg y = s.pc + 1) → exec (.st x y) s = .refused .storeIntoNextWords) ∧
    (∀ s t : State, Executes s → step s = .next t → Executes t → t.pc ∈ t.storesLast → step t = .refused .staleFetch) ∧
    (∀ s t u : State, Executes s → step s = .next t → Executes t → step t = .next u → Executes u →
      u.pc ∈ t.storesLast → step u = .refused .staleFetch) ∧
    (∀ (s : State) (w : Word), Fetches s w → s.fetch = .next w)

/-- Appending a list of requests to a buffer of at most 256 entries gives the first 256 of the old entries followed by
the requests, in order, and changes nothing else: entries already there are kept, the excess is lost, and the same
number may be there several times. Each delivery takes the oldest entry and keeps the others in order. (R283) -/
def Obligations.InterruptBufferIsFirstInFirstOut : Prop :=
  (∀ (s : State) (l : List (BitVec 8)), s.ibuf.length ≤ 256 →
      s.enqueueAll l = { s with ibuf := (s.ibuf ++ l).take 256 }) ∧
    (∀ (s : State) (n : BitVec 8) (rest : List (BitVec 8)), s.mode = .user → s.extIrq = [] → s.ibuf = n :: rest →
      ∃ t, step s = .next t ∧ t.ibuf = rest ∧ t.pc = s.vecOf n)
end

