-- ==== Sys2Proof/Laws/Decisions.lean ====
section
/-! SUPPORT. What the configuration fields of R8 and R9 make of the operations that read them, at the spec's choices: with
these lemmas no proof unfolds a field. -/

namespace Sys2Proof

/-! ## The instruction word (D1, D2, D4) -/

@[simp] theorem inDiagramOrder_eq (w : Word) : inDiagramOrder w = w := rfl

@[simp] theorem regOf_eq (k : Nat) : regOf k = Fin.ofNat 32 k := by simp [regOf, Config.i0Number]

@[simp] theorem regNumber_eq (r : Reg) : regNumber r = r.val := congrArg Fin.val (Fin.add_zero r)

theorem regNumber_lt (r : Reg) : regNumber r < 32 := (r + Config.i0Number).isLt

theorem decode_eq (w : Word) : decode w = decodeDiagram w := rfl

theorem encode_eq (i : Instr) : encode i = encodeDiagram i := rfl

/-- Where the places are numbered from 0, a place's op number is the place. -/
theorem opNumber_range (n k : Nat) : opNumber (List.range n) k = k := by
  by_cases h : k < n <;> simp [opNumber, h]

/-- Where the places are numbered from 0, an op number's place is that number, or `n`, which is no place. -/
theorem placeOf_range (n op : Nat) : placeOf (List.range n) op = min op n := by
  by_cases h : op < n
  · have := List.nodup_range (n := n) |>.idxOf_getElem op (by simpa using h)
    simp only [List.getElem_range] at this
    rw [placeOf, this]; omega
  · rw [placeOf, List.idxOf_eq_length (by simpa using h), List.length_range]; omega

@[simp] theorem opNumber_int3Ops (k : Nat) : opNumber Config.int3Ops k = k := opNumber_range 15 k
@[simp] theorem opNumber_int2Ops (k : Nat) : opNumber Config.int2Ops k = k := opNumber_range 11 k
@[simp] theorem opNumber_int1Ops (k : Nat) : opNumber Config.int1Ops k = k := opNumber_range 36 k
@[simp] theorem opNumber_fp3Ops (k : Nat) : opNumber Config.fp3Ops k = k := opNumber_range 5 k
@[simp] theorem opNumber_fp2Ops (k : Nat) : opNumber Config.fp2Ops k = k := opNumber_range 11 k
@[simp] theorem opNumber_zeroOps (k : Nat) : opNumber Config.zeroOps k = k := opNumber_range 20 k

@[simp] theorem placeOf_int3Ops (op : Nat) : placeOf Config.int3Ops op = min op 15 := placeOf_range 15 op
@[simp] theorem placeOf_int2Ops (op : Nat) : placeOf Config.int2Ops op = min op 11 := placeOf_range 11 op
@[simp] theorem placeOf_int1Ops (op : Nat) : placeOf Config.int1Ops op = min op 36 := placeOf_range 36 op
@[simp] theorem placeOf_fp3Ops (op : Nat) : placeOf Config.fp3Ops op = min op 5 := placeOf_range 5 op
@[simp] theorem placeOf_fp2Ops (op : Nat) : placeOf Config.fp2Ops op = min op 11 := placeOf_range 11 op
@[simp] theorem placeOf_zeroOps (op : Nat) : placeOf Config.zeroOps op = min op 20 := placeOf_range 20 op

namespace Machine

/-! ## The program counter, memory and the stacks (D5, D7, D21, D36) -/

@[simp] theorem translate_eq (a : Word) : Config.translate a = a := rfl

@[simp] theorem State.pcValue_eq (s : State) : s.pcValue = s.pc := rfl

@[simp] theorem spPushed_eq (sp n : Word) : spPushed sp n = sp - n := rfl

@[simp] theorem spPopped_eq (sp n : Word) : spPopped sp n = sp + n := rfl

@[simp] theorem pushAddr_eq (sp n : Word) : pushAddr sp n = sp - n := rfl

@[simp] theorem topAddr_eq (sp n : Word) : topAddr sp n = sp := rfl

@[simp] theorem firstWord_eq (d : Word64) : firstWord d = hi32 d := rfl

@[simp] theorem secondWord_eq (d : Word64) : secondWord d = lo32 d := rfl

@[simp] theorem joinWords_eq (p q : Word) : joinWords p q = p ++ q := rfl

/-! ## Integer results and flags (D10 to D14, D23) -/

theorem Flags.setZN_eq (fl : Flags) (r : Word) : fl.setZN r = { fl with z := decide (r = 0), n := r.msb } := rfl

@[simp] theorem unsuffixed_eq {α : Type} (u s : α) : unsuffixed u s = u := rfl

@[simp] theorem cmpGreater_eq (a b : Word) : cmpGreater a b = decide (a.toInt < b.toInt) := rfl

/-- The remainder of the one quotient that does not fit is the one the division gives (R117). -/
theorem modS_eq (a b : Word) :
    modS a b = if b = 0 then (0, true) else (BitVec.ofInt 32 (a.toInt.tmod b.toInt), false) := by
  unfold modS
  by_cases h : a = 0x80000000 ∧ b = 0xFFFFFFFF
  · obtain ⟨rfl, rfl⟩ := h; decide
  · rw [if_neg h]; rfl

@[simp] theorem aluAsl_eq (v : Word) (n : Nat) : aluAsl v n = aluShl v n := rfl

@[simp] theorem aluRol_eq (v : Word) (n : Nat) (c : Bool) :
    aluRol v n c = .of ((v <<< n) ||| (v >>> (32 - n))) (Config.leftFlags v n) := rfl

@[simp] theorem aluRor_eq (v : Word) (n : Nat) (c : Bool) :
    aluRor v n c = .of ((v >>> n) ||| (v <<< (32 - n))) (Config.rightFlags v n) := rfl

@[simp] theorem fftoiV_eq (fits : Bool) : Config.fftoiV fits = !fits := rfl

@[simp] theorem shiftCount_eq (w : Word) : Config.shiftCount w = w.toNat % 32 := rfl

/-! ## The floating-point registers, the format and `FPNUM` (D19, D22, D24) -/

@[simp] theorem floatIndex_eq (md : Mode) (j : FReg) : floatIndex md j = j.val := by
  cases md <;> simp [floatIndex, floatBank]

theorem State.readF_eq (s : State) (j : FReg) : s.readF j = s.f[j.val] := by simp [State.readF]

theorem State.writeF_eq (s : State) (j : FReg) (d : Word64) : s.writeF j d = { s with f := s.f.set j.val d } := by
  simp [State.writeF]

/-- A floating-point register reads alike in states with the same registers, whatever their modes (R35). -/
theorem State.readF_congr {s t : State} (h : t.f = s.f) (j : FReg) : t.readF j = s.readF j := by
  simp [State.readF, h]

@[simp] theorem fpFormat_isNan : Config.fpFormat.isNan = isNan := rfl
@[simp] theorem fpFormat_isInf : Config.fpFormat.isInf = isInf := rfl
@[simp] theorem fpFormat_isZero : Config.fpFormat.isZero = isZero := rfl
@[simp] theorem fpFormat_isDenorm : Config.fpFormat.isDenorm = isDenorm := rfl
@[simp] theorem fpFormat_sign : Config.fpFormat.sign = fSign := rfl
@[simp] theorem fpFormat_order : Config.fpFormat.order = orderKey := rfl
@[simp] theorem fpFormat_neg : Config.fpFormat.neg = fpNeg := rfl
@[simp] theorem fpFormat_abs : Config.fpFormat.abs = fpAbs := rfl
@[simp] theorem fpFormat_zero : Config.fpFormat.zero = zeroOf false := rfl
@[simp] theorem fpFormat_nanOf : Config.fpFormat.nanOf = nanOf := rfl

@[simp] theorem fpnum_add : Config.fpnum.add = fpAdd := rfl
@[simp] theorem fpnum_sub : Config.fpnum.sub = fpSub := rfl
@[simp] theorem fpnum_mul : Config.fpnum.mul = fpMul := rfl
@[simp] theorem fpnum_div : Config.fpnum.div = fpDiv := rfl
@[simp] theorem fpnum_sqrt : Config.fpnum.sqrt = fpSqrt := rfl
@[simp] theorem fpnum_sin : Config.fpnum.sin = Config.fpSin := rfl
@[simp] theorem fpnum_cos : Config.fpnum.cos = Config.fpCos := rfl
@[simp] theorem fpnum_log2p1 : Config.fpnum.log2p1 = Config.fpLog2p1 := rfl
@[simp] theorem fpnum_exp2m1 : Config.fpnum.exp2m1 = Config.fpExp2m1 := rfl
@[simp] theorem fpnum_atan : Config.fpnum.atan = Config.fpAtan := rfl
@[simp] theorem fpnum_ofInt : Config.fpnum.ofInt = fpOfInt := rfl
@[simp] theorem fpnum_toInt : Config.fpnum.toInt = fpToInt := rfl

/-! ## Interrupts (D29, D31, D32) -/

@[simp] theorem joinBuffer_eq (l : List (BitVec 8)) (n : BitVec 8) : joinBuffer l n = l ++ [n] := rfl

@[simp] theorem State.requestInt_eq (s : State) (n : BitVec 8) : s.requestInt n = s.enqueue n := rfl

theorem State.waits_eq (s : State) : s.waits = (s.stopped && s.ibuf.isEmpty) := by
  simp [State.waits, Config.stopEndsInSupervisor]

theorem State.pendingInterrupt_eq (s : State) :
    s.pendingInterrupt = match s.mode with
      | .supervisor => none
      | .user => s.ibuf.head? := rfl

end Machine

end Sys2Proof
end

