-- ==== Sys2Proof/Laws/State.lean ====
section
/-! SUPPORT. One lemma for each field that an update of the state leaves alone, and the small laws of the registers and
the status registers. -/

namespace Sys2Proof.Machine

/-! ## `setFlagsOf` -/

@[simp] theorem State.setFlagsOf_xu (s : State) (md : Mode) (fl : Flags) : (s.setFlagsOf md fl).xu = s.xu := by cases md <;> rfl
@[simp] theorem State.setFlagsOf_xs (s : State) (md : Mode) (fl : Flags) : (s.setFlagsOf md fl).xs = s.xs := by cases md <;> rfl
@[simp] theorem State.setFlagsOf_pc (s : State) (md : Mode) (fl : Flags) : (s.setFlagsOf md fl).pc = s.pc := by cases md <;> rfl
@[simp] theorem State.setFlagsOf_mode (s : State) (md : Mode) (fl : Flags) : (s.setFlagsOf md fl).mode = s.mode := by cases md <;> rfl
@[simp] theorem State.setFlagsOf_f (s : State) (md : Mode) (fl : Flags) : (s.setFlagsOf md fl).f = s.f := by cases md <;> rfl
@[simp] theorem State.setFlagsOf_m (s : State) (md : Mode) (fl : Flags) : (s.setFlagsOf md fl).m = s.m := by cases md <;> rfl
@[simp] theorem State.setFlagsOf_ibuf (s : State) (md : Mode) (fl : Flags) : (s.setFlagsOf md fl).ibuf = s.ibuf := by cases md <;> rfl
@[simp] theorem State.setFlagsOf_stopped (s : State) (md : Mode) (fl : Flags) : (s.setFlagsOf md fl).stopped = s.stopped := by cases md <;> rfl
@[simp] theorem State.setFlagsOf_mem (s : State) (md : Mode) (fl : Flags) : (s.setFlagsOf md fl).mem = s.mem := by cases md <;> rfl
@[simp] theorem State.setFlagsOf_storesLast (s : State) (md : Mode) (fl : Flags) : (s.setFlagsOf md fl).storesLast = s.storesLast := by cases md <;> rfl
@[simp] theorem State.setFlagsOf_storesPrev (s : State) (md : Mode) (fl : Flags) : (s.setFlagsOf md fl).storesPrev = s.storesPrev := by cases md <;> rfl
@[simp] theorem State.setFlagsOf_draws (s : State) (md : Mode) (fl : Flags) : (s.setFlagsOf md fl).draws = s.draws := by cases md <;> rfl
@[simp] theorem State.setFlagsOf_extIrq (s : State) (md : Mode) (fl : Flags) : (s.setFlagsOf md fl).extIrq = s.extIrq := by cases md <;> rfl
@[simp] theorem State.setFlagsOf_memMap (s : State) (md : Mode) (fl : Flags) : (s.setFlagsOf md fl).memMap = s.memMap := by cases md <;> rfl
@[simp] theorem State.setFlagsOf_vectors (s : State) (md : Mode) (fl : Flags) : (s.setFlagsOf md fl).vectors = s.vectors := by cases md <;> rfl

/-! ## `setFlags` -/

@[simp] theorem State.setFlags_xu (s : State) (fl : Flags) : (s.setFlags fl).xu = s.xu := by simp [State.setFlags]
@[simp] theorem State.setFlags_xs (s : State) (fl : Flags) : (s.setFlags fl).xs = s.xs := by simp [State.setFlags]
@[simp] theorem State.setFlags_pc (s : State) (fl : Flags) : (s.setFlags fl).pc = s.pc := by simp [State.setFlags]
@[simp] theorem State.setFlags_mode (s : State) (fl : Flags) : (s.setFlags fl).mode = s.mode := by simp [State.setFlags]
@[simp] theorem State.setFlags_f (s : State) (fl : Flags) : (s.setFlags fl).f = s.f := by simp [State.setFlags]
@[simp] theorem State.setFlags_m (s : State) (fl : Flags) : (s.setFlags fl).m = s.m := by simp [State.setFlags]
@[simp] theorem State.setFlags_ibuf (s : State) (fl : Flags) : (s.setFlags fl).ibuf = s.ibuf := by simp [State.setFlags]
@[simp] theorem State.setFlags_stopped (s : State) (fl : Flags) : (s.setFlags fl).stopped = s.stopped := by simp [State.setFlags]
@[simp] theorem State.setFlags_mem (s : State) (fl : Flags) : (s.setFlags fl).mem = s.mem := by simp [State.setFlags]
@[simp] theorem State.setFlags_storesLast (s : State) (fl : Flags) : (s.setFlags fl).storesLast = s.storesLast := by simp [State.setFlags]
@[simp] theorem State.setFlags_storesPrev (s : State) (fl : Flags) : (s.setFlags fl).storesPrev = s.storesPrev := by simp [State.setFlags]
@[simp] theorem State.setFlags_draws (s : State) (fl : Flags) : (s.setFlags fl).draws = s.draws := by simp [State.setFlags]
@[simp] theorem State.setFlags_extIrq (s : State) (fl : Flags) : (s.setFlags fl).extIrq = s.extIrq := by simp [State.setFlags]
@[simp] theorem State.setFlags_memMap (s : State) (fl : Flags) : (s.setFlags fl).memMap = s.memMap := by simp [State.setFlags]
@[simp] theorem State.setFlags_vectors (s : State) (fl : Flags) : (s.setFlags fl).vectors = s.vectors := by simp [State.setFlags]

/-! ## `writeReg` -/

@[simp] theorem State.writeReg_stu (s : State) (i : Reg) (v : Word) : (s.writeReg i v).stu = s.stu := by unfold State.writeReg; split <;> [rfl; (split <;> rfl)]
@[simp] theorem State.writeReg_sts (s : State) (i : Reg) (v : Word) : (s.writeReg i v).sts = s.sts := by unfold State.writeReg; split <;> [rfl; (split <;> rfl)]
@[simp] theorem State.writeReg_mode (s : State) (i : Reg) (v : Word) : (s.writeReg i v).mode = s.mode := by unfold State.writeReg; split <;> [rfl; (split <;> rfl)]
@[simp] theorem State.writeReg_f (s : State) (i : Reg) (v : Word) : (s.writeReg i v).f = s.f := by unfold State.writeReg; split <;> [rfl; (split <;> rfl)]
@[simp] theorem State.writeReg_m (s : State) (i : Reg) (v : Word) : (s.writeReg i v).m = s.m := by unfold State.writeReg; split <;> [rfl; (split <;> rfl)]
@[simp] theorem State.writeReg_ibuf (s : State) (i : Reg) (v : Word) : (s.writeReg i v).ibuf = s.ibuf := by unfold State.writeReg; split <;> [rfl; (split <;> rfl)]
@[simp] theorem State.writeReg_stopped (s : State) (i : Reg) (v : Word) : (s.writeReg i v).stopped = s.stopped := by unfold State.writeReg; split <;> [rfl; (split <;> rfl)]
@[simp] theorem State.writeReg_mem (s : State) (i : Reg) (v : Word) : (s.writeReg i v).mem = s.mem := by unfold State.writeReg; split <;> [rfl; (split <;> rfl)]
@[simp] theorem State.writeReg_storesLast (s : State) (i : Reg) (v : Word) : (s.writeReg i v).storesLast = s.storesLast := by unfold State.writeReg; split <;> [rfl; (split <;> rfl)]
@[simp] theorem State.writeReg_storesPrev (s : State) (i : Reg) (v : Word) : (s.writeReg i v).storesPrev = s.storesPrev := by unfold State.writeReg; split <;> [rfl; (split <;> rfl)]
@[simp] theorem State.writeReg_draws (s : State) (i : Reg) (v : Word) : (s.writeReg i v).draws = s.draws := by unfold State.writeReg; split <;> [rfl; (split <;> rfl)]
@[simp] theorem State.writeReg_extIrq (s : State) (i : Reg) (v : Word) : (s.writeReg i v).extIrq = s.extIrq := by unfold State.writeReg; split <;> [rfl; (split <;> rfl)]
@[simp] theorem State.writeReg_memMap (s : State) (i : Reg) (v : Word) : (s.writeReg i v).memMap = s.memMap := by unfold State.writeReg; split <;> [rfl; (split <;> rfl)]
@[simp] theorem State.writeReg_vectors (s : State) (i : Reg) (v : Word) : (s.writeReg i v).vectors = s.vectors := by unfold State.writeReg; split <;> [rfl; (split <;> rfl)]

/-! ## `writeF` -/

@[simp] theorem State.writeF_xu (s : State) (j : FReg) (d : Word64) : (s.writeF j d).xu = s.xu := rfl
@[simp] theorem State.writeF_xs (s : State) (j : FReg) (d : Word64) : (s.writeF j d).xs = s.xs := rfl
@[simp] theorem State.writeF_pc (s : State) (j : FReg) (d : Word64) : (s.writeF j d).pc = s.pc := rfl
@[simp] theorem State.writeF_stu (s : State) (j : FReg) (d : Word64) : (s.writeF j d).stu = s.stu := rfl
@[simp] theorem State.writeF_sts (s : State) (j : FReg) (d : Word64) : (s.writeF j d).sts = s.sts := rfl
@[simp] theorem State.writeF_mode (s : State) (j : FReg) (d : Word64) : (s.writeF j d).mode = s.mode := rfl
@[simp] theorem State.writeF_m (s : State) (j : FReg) (d : Word64) : (s.writeF j d).m = s.m := rfl
@[simp] theorem State.writeF_ibuf (s : State) (j : FReg) (d : Word64) : (s.writeF j d).ibuf = s.ibuf := rfl
@[simp] theorem State.writeF_stopped (s : State) (j : FReg) (d : Word64) : (s.writeF j d).stopped = s.stopped := rfl
@[simp] theorem State.writeF_mem (s : State) (j : FReg) (d : Word64) : (s.writeF j d).mem = s.mem := rfl
@[simp] theorem State.writeF_storesLast (s : State) (j : FReg) (d : Word64) : (s.writeF j d).storesLast = s.storesLast := rfl
@[simp] theorem State.writeF_storesPrev (s : State) (j : FReg) (d : Word64) : (s.writeF j d).storesPrev = s.storesPrev := rfl
@[simp] theorem State.writeF_draws (s : State) (j : FReg) (d : Word64) : (s.writeF j d).draws = s.draws := rfl
@[simp] theorem State.writeF_extIrq (s : State) (j : FReg) (d : Word64) : (s.writeF j d).extIrq = s.extIrq := rfl
@[simp] theorem State.writeF_memMap (s : State) (j : FReg) (d : Word64) : (s.writeF j d).memMap = s.memMap := rfl
@[simp] theorem State.writeF_vectors (s : State) (j : FReg) (d : Word64) : (s.writeF j d).vectors = s.vectors := rfl

/-! ## `setSsp` -/

@[simp] theorem State.setSsp_xu (s : State) (v : Word) : (s.setSsp v).xu = s.xu := rfl
@[simp] theorem State.setSsp_pc (s : State) (v : Word) : (s.setSsp v).pc = s.pc := rfl
@[simp] theorem State.setSsp_stu (s : State) (v : Word) : (s.setSsp v).stu = s.stu := rfl
@[simp] theorem State.setSsp_sts (s : State) (v : Word) : (s.setSsp v).sts = s.sts := rfl
@[simp] theorem State.setSsp_mode (s : State) (v : Word) : (s.setSsp v).mode = s.mode := rfl
@[simp] theorem State.setSsp_f (s : State) (v : Word) : (s.setSsp v).f = s.f := rfl
@[simp] theorem State.setSsp_m (s : State) (v : Word) : (s.setSsp v).m = s.m := rfl
@[simp] theorem State.setSsp_ibuf (s : State) (v : Word) : (s.setSsp v).ibuf = s.ibuf := rfl
@[simp] theorem State.setSsp_stopped (s : State) (v : Word) : (s.setSsp v).stopped = s.stopped := rfl
@[simp] theorem State.setSsp_mem (s : State) (v : Word) : (s.setSsp v).mem = s.mem := rfl
@[simp] theorem State.setSsp_storesLast (s : State) (v : Word) : (s.setSsp v).storesLast = s.storesLast := rfl
@[simp] theorem State.setSsp_storesPrev (s : State) (v : Word) : (s.setSsp v).storesPrev = s.storesPrev := rfl
@[simp] theorem State.setSsp_draws (s : State) (v : Word) : (s.setSsp v).draws = s.draws := rfl
@[simp] theorem State.setSsp_extIrq (s : State) (v : Word) : (s.setSsp v).extIrq = s.extIrq := rfl
@[simp] theorem State.setSsp_memMap (s : State) (v : Word) : (s.setSsp v).memMap = s.memMap := rfl
@[simp] theorem State.setSsp_vectors (s : State) (v : Word) : (s.setSsp v).vectors = s.vectors := rfl

/-! ## `drawWord` -/

@[simp] theorem State.drawWord_xu (s : State) : (s.drawWord.2).xu = s.xu := rfl
@[simp] theorem State.drawWord_xs (s : State) : (s.drawWord.2).xs = s.xs := rfl
@[simp] theorem State.drawWord_pc (s : State) : (s.drawWord.2).pc = s.pc := rfl
@[simp] theorem State.drawWord_stu (s : State) : (s.drawWord.2).stu = s.stu := rfl
@[simp] theorem State.drawWord_sts (s : State) : (s.drawWord.2).sts = s.sts := rfl
@[simp] theorem State.drawWord_mode (s : State) : (s.drawWord.2).mode = s.mode := rfl
@[simp] theorem State.drawWord_f (s : State) : (s.drawWord.2).f = s.f := rfl
@[simp] theorem State.drawWord_m (s : State) : (s.drawWord.2).m = s.m := rfl
@[simp] theorem State.drawWord_ibuf (s : State) : (s.drawWord.2).ibuf = s.ibuf := rfl
@[simp] theorem State.drawWord_stopped (s : State) : (s.drawWord.2).stopped = s.stopped := rfl
@[simp] theorem State.drawWord_mem (s : State) : (s.drawWord.2).mem = s.mem := rfl
@[simp] theorem State.drawWord_storesLast (s : State) : (s.drawWord.2).storesLast = s.storesLast := rfl
@[simp] theorem State.drawWord_storesPrev (s : State) : (s.drawWord.2).storesPrev = s.storesPrev := rfl
@[simp] theorem State.drawWord_extIrq (s : State) : (s.drawWord.2).extIrq = s.extIrq := rfl
@[simp] theorem State.drawWord_memMap (s : State) : (s.drawWord.2).memMap = s.memMap := rfl
@[simp] theorem State.drawWord_vectors (s : State) : (s.drawWord.2).vectors = s.vectors := rfl

/-! ## `drawNan` -/

@[simp] theorem State.drawNan_xu (s : State) : (s.drawNan.2).xu = s.xu := rfl
@[simp] theorem State.drawNan_xs (s : State) : (s.drawNan.2).xs = s.xs := rfl
@[simp] theorem State.drawNan_pc (s : State) : (s.drawNan.2).pc = s.pc := rfl
@[simp] theorem State.drawNan_stu (s : State) : (s.drawNan.2).stu = s.stu := rfl
@[simp] theorem State.drawNan_sts (s : State) : (s.drawNan.2).sts = s.sts := rfl
@[simp] theorem State.drawNan_mode (s : State) : (s.drawNan.2).mode = s.mode := rfl
@[simp] theorem State.drawNan_f (s : State) : (s.drawNan.2).f = s.f := rfl
@[simp] theorem State.drawNan_m (s : State) : (s.drawNan.2).m = s.m := rfl
@[simp] theorem State.drawNan_ibuf (s : State) : (s.drawNan.2).ibuf = s.ibuf := rfl
@[simp] theorem State.drawNan_stopped (s : State) : (s.drawNan.2).stopped = s.stopped := rfl
@[simp] theorem State.drawNan_mem (s : State) : (s.drawNan.2).mem = s.mem := rfl
@[simp] theorem State.drawNan_storesLast (s : State) : (s.drawNan.2).storesLast = s.storesLast := rfl
@[simp] theorem State.drawNan_storesPrev (s : State) : (s.drawNan.2).storesPrev = s.storesPrev := rfl
@[simp] theorem State.drawNan_extIrq (s : State) : (s.drawNan.2).extIrq = s.extIrq := rfl
@[simp] theorem State.drawNan_memMap (s : State) : (s.drawNan.2).memMap = s.memMap := rfl
@[simp] theorem State.drawNan_vectors (s : State) : (s.drawNan.2).vectors = s.vectors := rfl

/-! ## `enqueue` -/

@[simp] theorem State.enqueue_xu (s : State) (n : BitVec 8) : (s.enqueue n).xu = s.xu := by unfold State.enqueue; split <;> rfl
@[simp] theorem State.enqueue_xs (s : State) (n : BitVec 8) : (s.enqueue n).xs = s.xs := by unfold State.enqueue; split <;> rfl
@[simp] theorem State.enqueue_pc (s : State) (n : BitVec 8) : (s.enqueue n).pc = s.pc := by unfold State.enqueue; split <;> rfl
@[simp] theorem State.enqueue_stu (s : State) (n : BitVec 8) : (s.enqueue n).stu = s.stu := by unfold State.enqueue; split <;> rfl
@[simp] theorem State.enqueue_sts (s : State) (n : BitVec 8) : (s.enqueue n).sts = s.sts := by unfold State.enqueue; split <;> rfl
@[simp] theorem State.enqueue_mode (s : State) (n : BitVec 8) : (s.enqueue n).mode = s.mode := by unfold State.enqueue; split <;> rfl
@[simp] theorem State.enqueue_f (s : State) (n : BitVec 8) : (s.enqueue n).f = s.f := by unfold State.enqueue; split <;> rfl
@[simp] theorem State.enqueue_m (s : State) (n : BitVec 8) : (s.enqueue n).m = s.m := by unfold State.enqueue; split <;> rfl
@[simp] theorem State.enqueue_stopped (s : State) (n : BitVec 8) : (s.enqueue n).stopped = s.stopped := by unfold State.enqueue; split <;> rfl
@[simp] theorem State.enqueue_mem (s : State) (n : BitVec 8) : (s.enqueue n).mem = s.mem := by unfold State.enqueue; split <;> rfl
@[simp] theorem State.enqueue_storesLast (s : State) (n : BitVec 8) : (s.enqueue n).storesLast = s.storesLast := by unfold State.enqueue; split <;> rfl
@[simp] theorem State.enqueue_storesPrev (s : State) (n : BitVec 8) : (s.enqueue n).storesPrev = s.storesPrev := by unfold State.enqueue; split <;> rfl
@[simp] theorem State.enqueue_draws (s : State) (n : BitVec 8) : (s.enqueue n).draws = s.draws := by unfold State.enqueue; split <;> rfl
@[simp] theorem State.enqueue_extIrq (s : State) (n : BitVec 8) : (s.enqueue n).extIrq = s.extIrq := by unfold State.enqueue; split <;> rfl
@[simp] theorem State.enqueue_memMap (s : State) (n : BitVec 8) : (s.enqueue n).memMap = s.memMap := by unfold State.enqueue; split <;> rfl
@[simp] theorem State.enqueue_vectors (s : State) (n : BitVec 8) : (s.enqueue n).vectors = s.vectors := by unfold State.enqueue; split <;> rfl

/-! ## `wake` -/

@[simp] theorem State.wake_xu (s : State) : (s.wake).xu = s.xu := rfl
@[simp] theorem State.wake_xs (s : State) : (s.wake).xs = s.xs := rfl
@[simp] theorem State.wake_pc (s : State) : (s.wake).pc = s.pc := rfl
@[simp] theorem State.wake_stu (s : State) : (s.wake).stu = s.stu := rfl
@[simp] theorem State.wake_sts (s : State) : (s.wake).sts = s.sts := rfl
@[simp] theorem State.wake_mode (s : State) : (s.wake).mode = s.mode := rfl
@[simp] theorem State.wake_f (s : State) : (s.wake).f = s.f := rfl
@[simp] theorem State.wake_m (s : State) : (s.wake).m = s.m := rfl
@[simp] theorem State.wake_ibuf (s : State) : (s.wake).ibuf = s.ibuf := rfl
@[simp] theorem State.wake_mem (s : State) : (s.wake).mem = s.mem := rfl
@[simp] theorem State.wake_storesLast (s : State) : (s.wake).storesLast = s.storesLast := rfl
@[simp] theorem State.wake_storesPrev (s : State) : (s.wake).storesPrev = s.storesPrev := rfl
@[simp] theorem State.wake_draws (s : State) : (s.wake).draws = s.draws := rfl
@[simp] theorem State.wake_extIrq (s : State) : (s.wake).extIrq = s.extIrq := rfl
@[simp] theorem State.wake_memMap (s : State) : (s.wake).memMap = s.memMap := rfl
@[simp] theorem State.wake_vectors (s : State) : (s.wake).vectors = s.vectors := rfl

/-! ## `advance` -/

@[simp] theorem State.advance_xu (s : State) : (s.advance).xu = s.xu := rfl
@[simp] theorem State.advance_xs (s : State) : (s.advance).xs = s.xs := rfl
@[simp] theorem State.advance_stu (s : State) : (s.advance).stu = s.stu := rfl
@[simp] theorem State.advance_sts (s : State) : (s.advance).sts = s.sts := rfl
@[simp] theorem State.advance_mode (s : State) : (s.advance).mode = s.mode := rfl
@[simp] theorem State.advance_f (s : State) : (s.advance).f = s.f := rfl
@[simp] theorem State.advance_m (s : State) : (s.advance).m = s.m := rfl
@[simp] theorem State.advance_ibuf (s : State) : (s.advance).ibuf = s.ibuf := rfl
@[simp] theorem State.advance_stopped (s : State) : (s.advance).stopped = s.stopped := rfl
@[simp] theorem State.advance_mem (s : State) : (s.advance).mem = s.mem := rfl
@[simp] theorem State.advance_draws (s : State) : (s.advance).draws = s.draws := rfl
@[simp] theorem State.advance_extIrq (s : State) : (s.advance).extIrq = s.extIrq := rfl
@[simp] theorem State.advance_memMap (s : State) : (s.advance).memMap = s.memMap := rfl
@[simp] theorem State.advance_vectors (s : State) : (s.advance).vectors = s.vectors := rfl

/-! ## `deliver` -/

@[simp] theorem State.deliver_xu (s : State) (n : BitVec 8) : (s.deliver n).xu = s.xu := rfl
@[simp] theorem State.deliver_stu (s : State) (n : BitVec 8) : (s.deliver n).stu = s.stu := rfl
@[simp] theorem State.deliver_sts (s : State) (n : BitVec 8) : (s.deliver n).sts = s.sts := rfl
@[simp] theorem State.deliver_f (s : State) (n : BitVec 8) : (s.deliver n).f = s.f := rfl
@[simp] theorem State.deliver_m (s : State) (n : BitVec 8) : (s.deliver n).m = s.m := rfl
@[simp] theorem State.deliver_stopped (s : State) (n : BitVec 8) : (s.deliver n).stopped = s.stopped := rfl
@[simp] theorem State.deliver_mem (s : State) (n : BitVec 8) : (s.deliver n).mem = s.mem := rfl
@[simp] theorem State.deliver_storesLast (s : State) (n : BitVec 8) : (s.deliver n).storesLast = s.storesLast := rfl
@[simp] theorem State.deliver_storesPrev (s : State) (n : BitVec 8) : (s.deliver n).storesPrev = s.storesPrev := rfl
@[simp] theorem State.deliver_draws (s : State) (n : BitVec 8) : (s.deliver n).draws = s.draws := rfl
@[simp] theorem State.deliver_extIrq (s : State) (n : BitVec 8) : (s.deliver n).extIrq = s.extIrq := rfl
@[simp] theorem State.deliver_memMap (s : State) (n : BitVec 8) : (s.deliver n).memMap = s.memMap := rfl
@[simp] theorem State.deliver_vectors (s : State) (n : BitVec 8) : (s.deliver n).vectors = s.vectors := rfl

/-! ## `returnToUser` -/

@[simp] theorem State.returnToUser_xu (s : State) : (s.returnToUser).xu = s.xu := rfl
@[simp] theorem State.returnToUser_xs (s : State) : (s.returnToUser).xs = s.xs := rfl
@[simp] theorem State.returnToUser_stu (s : State) : (s.returnToUser).stu = s.stu := rfl
@[simp] theorem State.returnToUser_sts (s : State) : (s.returnToUser).sts = s.sts := rfl
@[simp] theorem State.returnToUser_f (s : State) : (s.returnToUser).f = s.f := rfl
@[simp] theorem State.returnToUser_m (s : State) : (s.returnToUser).m = s.m := rfl
@[simp] theorem State.returnToUser_ibuf (s : State) : (s.returnToUser).ibuf = s.ibuf := rfl
@[simp] theorem State.returnToUser_stopped (s : State) : (s.returnToUser).stopped = s.stopped := rfl
@[simp] theorem State.returnToUser_mem (s : State) : (s.returnToUser).mem = s.mem := rfl
@[simp] theorem State.returnToUser_storesLast (s : State) : (s.returnToUser).storesLast = s.storesLast := rfl
@[simp] theorem State.returnToUser_storesPrev (s : State) : (s.returnToUser).storesPrev = s.storesPrev := rfl
@[simp] theorem State.returnToUser_draws (s : State) : (s.returnToUser).draws = s.draws := rfl
@[simp] theorem State.returnToUser_extIrq (s : State) : (s.returnToUser).extIrq = s.extIrq := rfl
@[simp] theorem State.returnToUser_memMap (s : State) : (s.returnToUser).memMap = s.memMap := rfl
@[simp] theorem State.returnToUser_vectors (s : State) : (s.returnToUser).vectors = s.vectors := rfl

/-! ## `enqueueAll` and the arrivals -/

@[simp] theorem State.enqueueAll_xu (s : State) (l : List (BitVec 8)) : (s.enqueueAll l).xu = s.xu := by
  induction l generalizing s with
  | nil => rfl
  | cons n rest ih => exact (ih _).trans (State.enqueue_xu s n)
@[simp] theorem State.enqueueAll_xs (s : State) (l : List (BitVec 8)) : (s.enqueueAll l).xs = s.xs := by
  induction l generalizing s with
  | nil => rfl
  | cons n rest ih => exact (ih _).trans (State.enqueue_xs s n)
@[simp] theorem State.enqueueAll_pc (s : State) (l : List (BitVec 8)) : (s.enqueueAll l).pc = s.pc := by
  induction l generalizing s with
  | nil => rfl
  | cons n rest ih => exact (ih _).trans (State.enqueue_pc s n)
@[simp] theorem State.enqueueAll_stu (s : State) (l : List (BitVec 8)) : (s.enqueueAll l).stu = s.stu := by
  induction l generalizing s with
  | nil => rfl
  | cons n rest ih => exact (ih _).trans (State.enqueue_stu s n)
@[simp] theorem State.enqueueAll_sts (s : State) (l : List (BitVec 8)) : (s.enqueueAll l).sts = s.sts := by
  induction l generalizing s with
  | nil => rfl
  | cons n rest ih => exact (ih _).trans (State.enqueue_sts s n)
@[simp] theorem State.enqueueAll_mode (s : State) (l : List (BitVec 8)) : (s.enqueueAll l).mode = s.mode := by
  induction l generalizing s with
  | nil => rfl
  | cons n rest ih => exact (ih _).trans (State.enqueue_mode s n)
@[simp] theorem State.enqueueAll_f (s : State) (l : List (BitVec 8)) : (s.enqueueAll l).f = s.f := by
  induction l generalizing s with
  | nil => rfl
  | cons n rest ih => exact (ih _).trans (State.enqueue_f s n)
@[simp] theorem State.enqueueAll_m (s : State) (l : List (BitVec 8)) : (s.enqueueAll l).m = s.m := by
  induction l generalizing s with
  | nil => rfl
  | cons n rest ih => exact (ih _).trans (State.enqueue_m s n)
@[simp] theorem State.enqueueAll_stopped (s : State) (l : List (BitVec 8)) : (s.enqueueAll l).stopped = s.stopped := by
  induction l generalizing s with
  | nil => rfl
  | cons n rest ih => exact (ih _).trans (State.enqueue_stopped s n)
@[simp] theorem State.enqueueAll_mem (s : State) (l : List (BitVec 8)) : (s.enqueueAll l).mem = s.mem := by
  induction l generalizing s with
  | nil => rfl
  | cons n rest ih => exact (ih _).trans (State.enqueue_mem s n)
@[simp] theorem State.enqueueAll_storesLast (s : State) (l : List (BitVec 8)) : (s.enqueueAll l).storesLast = s.storesLast := by
  induction l generalizing s with
  | nil => rfl
  | cons n rest ih => exact (ih _).trans (State.enqueue_storesLast s n)
@[simp] theorem State.enqueueAll_storesPrev (s : State) (l : List (BitVec 8)) : (s.enqueueAll l).storesPrev = s.storesPrev := by
  induction l generalizing s with
  | nil => rfl
  | cons n rest ih => exact (ih _).trans (State.enqueue_storesPrev s n)
@[simp] theorem State.enqueueAll_draws (s : State) (l : List (BitVec 8)) : (s.enqueueAll l).draws = s.draws := by
  induction l generalizing s with
  | nil => rfl
  | cons n rest ih => exact (ih _).trans (State.enqueue_draws s n)
@[simp] theorem State.enqueueAll_extIrq (s : State) (l : List (BitVec 8)) : (s.enqueueAll l).extIrq = s.extIrq := by
  induction l generalizing s with
  | nil => rfl
  | cons n rest ih => exact (ih _).trans (State.enqueue_extIrq s n)
@[simp] theorem State.enqueueAll_memMap (s : State) (l : List (BitVec 8)) : (s.enqueueAll l).memMap = s.memMap := by
  induction l generalizing s with
  | nil => rfl
  | cons n rest ih => exact (ih _).trans (State.enqueue_memMap s n)
@[simp] theorem State.enqueueAll_vectors (s : State) (l : List (BitVec 8)) : (s.enqueueAll l).vectors = s.vectors := by
  induction l generalizing s with
  | nil => rfl
  | cons n rest ih => exact (ih _).trans (State.enqueue_vectors s n)

@[simp] theorem State.arriveBetween_xu (s : State) : s.arriveBetween.xu = s.xu := by
  unfold State.arriveBetween; split <;> simp
@[simp] theorem State.arriveDuring_xu (s : State) : s.arriveDuring.xu = s.xu := by
  unfold State.arriveDuring; split <;> simp
@[simp] theorem State.arriveBetween_xs (s : State) : s.arriveBetween.xs = s.xs := by
  unfold State.arriveBetween; split <;> simp
@[simp] theorem State.arriveDuring_xs (s : State) : s.arriveDuring.xs = s.xs := by
  unfold State.arriveDuring; split <;> simp
@[simp] theorem State.arriveBetween_pc (s : State) : s.arriveBetween.pc = s.pc := by
  unfold State.arriveBetween; split <;> simp
@[simp] theorem State.arriveDuring_pc (s : State) : s.arriveDuring.pc = s.pc := by
  unfold State.arriveDuring; split <;> simp
@[simp] theorem State.arriveBetween_stu (s : State) : s.arriveBetween.stu = s.stu := by
  unfold State.arriveBetween; split <;> simp
@[simp] theorem State.arriveDuring_stu (s : State) : s.arriveDuring.stu = s.stu := by
  unfold State.arriveDuring; split <;> simp
@[simp] theorem State.arriveBetween_sts (s : State) : s.arriveBetween.sts = s.sts := by
  unfold State.arriveBetween; split <;> simp
@[simp] theorem State.arriveDuring_sts (s : State) : s.arriveDuring.sts = s.sts := by
  unfold State.arriveDuring; split <;> simp
@[simp] theorem State.arriveBetween_mode (s : State) : s.arriveBetween.mode = s.mode := by
  unfold State.arriveBetween; split <;> simp
@[simp] theorem State.arriveDuring_mode (s : State) : s.arriveDuring.mode = s.mode := by
  unfold State.arriveDuring; split <;> simp
@[simp] theorem State.arriveBetween_f (s : State) : s.arriveBetween.f = s.f := by
  unfold State.arriveBetween; split <;> simp
@[simp] theorem State.arriveDuring_f (s : State) : s.arriveDuring.f = s.f := by
  unfold State.arriveDuring; split <;> simp
@[simp] theorem State.arriveBetween_m (s : State) : s.arriveBetween.m = s.m := by
  unfold State.arriveBetween; split <;> simp
@[simp] theorem State.arriveDuring_m (s : State) : s.arriveDuring.m = s.m := by
  unfold State.arriveDuring; split <;> simp
@[simp] theorem State.arriveBetween_stopped (s : State) : s.arriveBetween.stopped = s.stopped := by
  unfold State.arriveBetween; split <;> simp
@[simp] theorem State.arriveDuring_stopped (s : State) : s.arriveDuring.stopped = s.stopped := by
  unfold State.arriveDuring; split <;> simp
@[simp] theorem State.arriveBetween_mem (s : State) : s.arriveBetween.mem = s.mem := by
  unfold State.arriveBetween; split <;> simp
@[simp] theorem State.arriveDuring_mem (s : State) : s.arriveDuring.mem = s.mem := by
  unfold State.arriveDuring; split <;> simp
@[simp] theorem State.arriveBetween_storesLast (s : State) : s.arriveBetween.storesLast = s.storesLast := by
  unfold State.arriveBetween; split <;> simp
@[simp] theorem State.arriveDuring_storesLast (s : State) : s.arriveDuring.storesLast = s.storesLast := by
  unfold State.arriveDuring; split <;> simp
@[simp] theorem State.arriveBetween_storesPrev (s : State) : s.arriveBetween.storesPrev = s.storesPrev := by
  unfold State.arriveBetween; split <;> simp
@[simp] theorem State.arriveDuring_storesPrev (s : State) : s.arriveDuring.storesPrev = s.storesPrev := by
  unfold State.arriveDuring; split <;> simp
@[simp] theorem State.arriveBetween_draws (s : State) : s.arriveBetween.draws = s.draws := by
  unfold State.arriveBetween; split <;> simp
@[simp] theorem State.arriveDuring_draws (s : State) : s.arriveDuring.draws = s.draws := by
  unfold State.arriveDuring; split <;> simp
@[simp] theorem State.arriveBetween_extIrq (s : State) : s.arriveBetween.extIrq = s.extIrq := by
  unfold State.arriveBetween; split <;> simp
@[simp] theorem State.arriveBetween_memMap (s : State) : s.arriveBetween.memMap = s.memMap := by
  unfold State.arriveBetween; split <;> simp
@[simp] theorem State.arriveDuring_memMap (s : State) : s.arriveDuring.memMap = s.memMap := by
  unfold State.arriveDuring; split <;> simp
@[simp] theorem State.arriveBetween_vectors (s : State) : s.arriveBetween.vectors = s.vectors := by
  unfold State.arriveBetween; split <;> simp
@[simp] theorem State.arriveDuring_vectors (s : State) : s.arriveDuring.vectors = s.vectors := by
  unfold State.arriveDuring; split <;> simp

@[simp] theorem State.arriveDuring_extIrq (s : State) : s.arriveDuring.extIrq = s.extIrq.tail := by
  unfold State.arriveDuring; split <;> simp [*]

/-- The buffer never outgrows its depth by an append (R37). -/
theorem State.enqueue_length_le (s : State) (n : BitVec 8) (h : s.ibuf.length ≤ Config.ibufDepth) :
    (s.enqueue n).ibuf.length ≤ Config.ibufDepth := by
  unfold State.enqueue; split
  · simp; omega
  · exact h

theorem State.enqueueAll_length_le (s : State) (l : List (BitVec 8)) (h : s.ibuf.length ≤ Config.ibufDepth) :
    (s.enqueueAll l).ibuf.length ≤ Config.ibufDepth := by
  induction l generalizing s with
  | nil => exact h
  | cons n rest ih => exact ih _ (s.enqueue_length_le n h)

theorem State.arriveBetween_length_le (s : State) (h : s.ibuf.length ≤ Config.ibufDepth) :
    s.arriveBetween.ibuf.length ≤ Config.ibufDepth := by
  unfold State.arriveBetween; split
  · exact h
  · exact s.enqueueAll_length_le _ h

theorem State.arriveDuring_length_le (s : State) (h : s.ibuf.length ≤ Config.ibufDepth) :
    s.arriveDuring.ibuf.length ≤ Config.ibufDepth := by
  unfold State.arriveDuring; split
  · exact h
  · exact State.enqueueAll_length_le _ _ h

/-! ## Status registers -/

@[simp] theorem State.setFlags_flags (s : State) (fl : Flags) : (s.setFlags fl).flags = fl := by
  unfold State.flags State.setFlags State.setFlagsOf; cases h : s.mode <;> simp

@[simp] theorem State.writeReg_flags (s : State) (i : Reg) (v : Word) : (s.writeReg i v).flags = s.flags := by
  simp [State.flags]

@[simp] theorem State.writeF_flags (s : State) (j : FReg) (d : Word64) : (s.writeF j d).flags = s.flags := rfl

/-! ## Registers -/

@[simp] theorem State.setFlagsOf_readReg (s : State) (md : Mode) (fl : Flags) (i : Reg) :
    (s.setFlagsOf md fl).readReg i = s.readReg i := by cases md <;> rfl

@[simp] theorem State.setFlags_readReg (s : State) (fl : Flags) (i : Reg) :
    (s.setFlags fl).readReg i = s.readReg i := by simp [State.setFlags]

@[simp] theorem State.writeF_readReg (s : State) (j : FReg) (d : Word64) (i : Reg) :
    (s.writeF j d).readReg i = s.readReg i := rfl

/-- Register 31 reads as `pc` (R24). -/
@[simp] theorem State.readReg_pc (s : State) : s.readReg 31 = s.pc := rfl

theorem State.readReg_of_lt (s : State) {i : Reg} (h : i.val < 31) : s.readReg i = s.bank[i.val] := by
  simp [State.readReg, h]

theorem Reg.lt_of_ne_pc {i : Reg} (h : i ≠ pcReg) : i.val < 31 := by
  have h1 := i.isLt
  have h2 : i.val ≠ 31 := fun e => h (Fin.ext e)
  omega

/-- A written register reads back, `%pc` included (R24, R25). -/
@[simp] theorem State.readReg_writeReg_same (s : State) (i : Reg) (v : Word) : (s.writeReg i v).readReg i = v := by
  unfold State.writeReg
  split
  · next h => subst h; rfl
  · next h =>
    have hi := Reg.lt_of_ne_pc h
    cases hm : s.mode <;> simp [State.readReg, State.bank, hi]

/-- A register write leaves every other register (R25). -/
theorem State.readReg_writeReg_other (s : State) {i k : Reg} (v : Word) (h : k ≠ i) :
    (s.writeReg i v).readReg k = s.readReg k := by
  have hv : i.val ≠ k.val := fun e => h (Fin.ext e.symm)
  unfold State.writeReg
  split
  · next hp =>
    have hk := Reg.lt_of_ne_pc (hp ▸ h : k ≠ pcReg)
    simp only [State.readReg, hk, dif_pos]; rfl
  · next hp =>
    cases hm : s.mode <;> by_cases hk : k.val < 31 <;>
      simp [State.readReg, State.bank, hk, hm, hv]

/-- A register write by the user leaves the supervisor bank. -/
theorem State.writeReg_xs_of_user (s : State) (i : Reg) (v : Word) (h : s.mode = .user) :
    (s.writeReg i v).xs = s.xs := by
  unfold State.writeReg; split <;> simp [h]

/-- A register write by the supervisor leaves the user bank. -/
theorem State.writeReg_xu_of_supervisor (s : State) (i : Reg) (v : Word) (h : s.mode = .supervisor) :
    (s.writeReg i v).xu = s.xu := by
  unfold State.writeReg; split <;> simp [h]

/-- Only a write to register 31 moves `pc`. -/
theorem State.writeReg_pc_of_ne (s : State) {i : Reg} (v : Word) (h : i ≠ pcReg) : (s.writeReg i v).pc = s.pc := by
  unfold State.writeReg; rw [if_neg h]; split <;> rfl

@[simp] theorem State.readF_writeF_same (s : State) (j : FReg) (d : Word64) : (s.writeF j d).readF j = d := by
  simp [State.readF, State.writeF]

theorem State.readF_writeF_other (s : State) {j k : FReg} (d : Word64) (h : k ≠ j) :
    (s.writeF j d).readF k = s.readF k := by
  have : j.val ≠ k.val := fun e => h (Fin.ext e.symm)
  simp [State.readF, State.writeF, this]

@[simp] theorem State.setSsp_ssp (s : State) (v : Word) : (s.setSsp v).ssp = v := by
  simp [State.ssp, State.setSsp]

end Sys2Proof.Machine
end

