-- ==== Sys2Proof/Laws/Float.lean ====
section
/-! SUPPORT. What the shared floating-point operations do for every record `FPNUM` (R9, R191, U16). The instructions are
these operations at `Config.fpnum`, so what is said here does not rest on the spec's default numerics. -/

namespace Sys2Proof.Machine

/-- The NaN of any sign and payload is a NaN (R190, R191). -/
theorem isNan_nanOf (d : Word64) : isNan (nanOf d) = true := by
  have key : ∀ (sg : BitVec 1) (p : BitVec 52), p ≠ 0 → isNan (sg ++ (0x7FF : BitVec 11) ++ p) = true := by
    intro sg p hp
    have h1 := sg.isLt
    have h2 := p.isLt
    have h3 : p.toNat ≠ 0 := fun h => hp (BitVec.eq_of_toNat_eq (by simpa using h))
    have e : (sg ++ (0x7FF : BitVec 11) ++ p).toNat = (sg.toNat * 2 ^ 11 + 2047) * 2 ^ 52 + p.toNat := by
      rw [BitVec.toNat_append, BitVec.toNat_append, ← Nat.shiftLeft_add_eq_or_of_lt h2,
        ← Nat.shiftLeft_add_eq_or_of_lt (by decide), Nat.shiftLeft_eq, Nat.shiftLeft_eq]
      rfl
    simp only [isNan, fExp, fFrac, e, Bool.and_eq_true, decide_eq_true_eq]
    omega
  unfold nanOf
  split
  · exact key _ _ (by decide)
  · next h => exact key _ _ h

@[simp] theorem State.putF_readF (s : State) (j : FReg) (d : Word64) : (s.putF j d).readF j = d := by
  simp [State.putF, State.readF, State.writeF]

theorem State.putF_readF_other (s : State) {j k : FReg} (d : Word64) (h : k ≠ j) :
    (s.putF j d).readF k = s.readF k := by
  have := State.readF_writeF_other s d h
  simpa [State.putF, State.readF] using this

@[simp] theorem State.putF_flags (s : State) (j : FReg) (d : Word64) : (s.putF j d).flags = s.flags.setAllF d := by
  simp [State.putF]

/-- A result, once its NaN is drawn where it is one, goes to its register and sets the six F flags (R192, R193, R205). -/
theorem State.putResult_eq (s : State) (j : FReg) (r : Option Word64) :
    ∃ d n, s.putResult j r = State.putF { s with draws := s.draws + n } j d ∧
      (∀ e, r = some e → d = e ∧ n = 0) ∧ (r = none → isNan d = true ∧ n = 1) := by
  cases r with
  | some e => exact ⟨e, 0, rfl, by simp, by simp⟩
  | none => exact ⟨_, 1, rfl, by simp, fun _ => ⟨isNan_nanOf _, rfl⟩⟩

/-- R193, whatever `FPNUM` is. -/
theorem fp3_eq_next (num : FpNum) (op : FpNum → Word64 → Word64 → Option Word64) (f g h : FReg) (s : State) :
    ∃ d n, fp3 num op f g h s = .next (State.putF { s with draws := s.draws + n } h d) ∧
      (∀ e, op num (s.readF f) (s.readF g) = some e → d = e ∧ n = 0) ∧
      (op num (s.readF f) (s.readF g) = none → isNan d = true ∧ n = 1) := by
  obtain ⟨d, n, e, h1, h2⟩ := s.putResult_eq h (op num (s.readF f) (s.readF g))
  exact ⟨d, n, congrArg Host.Outcome.next e, h1, h2⟩

/-- R205, whatever `FPNUM` is. -/
theorem fp2_eq_next (num : FpNum) (op : FpNum → Word64 → Option Word64) (f g : FReg) (s : State) :
    ∃ d n, fp2 num op f g s = .next (State.putF { s with draws := s.draws + n } g d) ∧
      (∀ e, op num (s.readF f) = some e → d = e ∧ n = 0) ∧
      (op num (s.readF f) = none → isNan d = true ∧ n = 1) := by
  obtain ⟨d, n, e, h1, h2⟩ := s.putResult_eq g (op num (s.readF f))
  exact ⟨d, n, congrArg Host.Outcome.next e, h1, h2⟩

/-- R209, whatever `FPNUM` is: G receives its integer conversion, and FZ and FN follow from the integer. -/
theorem intToFloat_eq_next (num : FpNum) (x : Reg) (g : FReg) (s : State) :
    intToFloat num x g s =
      .next ((s.writeF g (num.ofInt (s.readReg x))).setFlags (s.flags.setFitof (s.readReg x))) := rfl

/-- R210, whatever `FPNUM` is: Y receives the integer with V = 0, or a drawn word with V = 1. -/
theorem floatToInt_eq_next (num : FpNum) (f : FReg) (y : Reg) (s : State) :
    ∃ r v n, floatToInt num f y s =
        .next ((State.setFlags { s with draws := s.draws + n } (s.flags.setZNV r v)).writeReg y r) ∧
      (∀ e, num.toInt (s.readF f) = some e → r = e ∧ v = false ∧ n = 0) ∧
      (num.toInt (s.readF f) = none → v = true ∧ n = 1) := by
  unfold floatToInt
  cases num.toInt (s.readF f) with
  | some e => exact ⟨e, false, 0, rfl, by simp, by simp⟩
  | none => exact ⟨_, true, 1, rfl, by simp, by simp⟩

end Sys2Proof.Machine
end

