-- ==== Sys2Proof/Laws/Memory.lean ====
section
/-! SUPPORT. The laws of memory: a write is read back, leaves every other key and word alone, and keeps the canonical
form. -/

namespace Sys2Proof.Machine

theorem Memory.readByte_writeByte_same (m : Memory) (k : Nat) (b : Byte) :
    (m.writeByte k b).readByte k = some b := by
  induction m with
  | nil => simp [Memory.writeByte, Memory.readByte]
  | cons e rest ih =>
    obtain ⟨j, c⟩ := e
    simp only [Memory.writeByte]
    split
    · simp [Memory.readByte]
    · split
      · simp [Memory.readByte]
      · next h => simp only [Memory.readByte, if_neg (Ne.symm h), ih]

theorem Memory.readByte_writeByte_other (m : Memory) {k j : Nat} (b : Byte) (h : j ≠ k) :
    (m.writeByte k b).readByte j = m.readByte j := by
  induction m with
  | nil => simp [Memory.writeByte, Memory.readByte, Ne.symm h]
  | cons e rest ih =>
    obtain ⟨l, c⟩ := e
    simp only [Memory.writeByte]
    split
    · simp [Memory.readByte, Ne.symm h]
    · split
      · next _ hk => subst hk; simp [Memory.readByte, Ne.symm h]
      · simp only [Memory.readByte, ih]

theorem Memory.mem_writeByte {m : Memory} {k : Nat} {b : Byte} {c : Host.Cell} (h : c ∈ m.writeByte k b) :
    c = (k, b) ∨ c ∈ m := by
  induction m with
  | nil => simpa [Memory.writeByte] using h
  | cons e rest ih =>
    obtain ⟨j, d⟩ := e
    simp only [Memory.writeByte] at h
    split at h
    · simpa using h
    · split at h
      · rcases List.mem_cons.1 h with h | h
        · exact .inl h
        · exact .inr (List.mem_cons_of_mem _ h)
      · rcases List.mem_cons.1 h with h | h
        · exact .inr (h ▸ List.mem_cons_self ..)
        · exact (ih h).imp id (List.mem_cons_of_mem _)

theorem Memory.pairwise_writeByte {m : Memory} (k : Nat) (b : Byte) (h : m.Pairwise fun a b => a.1 < b.1) :
    (m.writeByte k b).Pairwise fun a b => a.1 < b.1 := by
  induction m with
  | nil => simp [Memory.writeByte]
  | cons e rest ih =>
    obtain ⟨j, d⟩ := e
    have hr := List.pairwise_cons.1 h
    simp only [Memory.writeByte]
    split
    · next hk =>
      refine List.pairwise_cons.2 ⟨fun c hc => ?_, h⟩
      rcases List.mem_cons.1 hc with rfl | hc
      · exact hk
      · exact hk.trans (hr.1 c hc)
    · split
      · next _ hk => subst hk; exact List.pairwise_cons.2 ⟨hr.1, hr.2⟩
      · next h1 h2 =>
        refine List.pairwise_cons.2 ⟨fun c hc => ?_, ih hr.2⟩
        rcases Memory.mem_writeByte hc with rfl | hc
        · show j < k; omega
        · exact hr.1 c hc

theorem Memory.wf_iff (m : Memory) :
    m.wf = true ↔ (m.Pairwise fun a b => a.1 < b.1) ∧ ∀ c ∈ m, c.1 < 4 * 2 ^ 32 := by
  simp only [Memory.wf, Bool.and_eq_true, decide_eq_true_eq, List.all_eq_true]

theorem Memory.wf_writeByte {m : Memory} {k : Nat} (b : Byte) (h : m.wf = true) (hk : k < 4 * 2 ^ 32) :
    (m.writeByte k b).wf = true := by
  rw [Memory.wf_iff] at h ⊢
  refine ⟨Memory.pairwise_writeByte k b h.1, fun c hc => ?_⟩
  rcases Memory.mem_writeByte hc with rfl | hc
  · exact hk
  · exact h.2 c hc

theorem byteKey_lt (a : Word) {k : Nat} (h : k < 4) : byteKey a k < 4 * 2 ^ 32 := by
  have := a.isLt
  simp only [byteKey]; omega

/-- Every memory operation keeps the canonical form. -/
theorem Memory.wf_writeWord {m : Memory} (a v : Word) (h : m.wf = true) : (m.writeWord a v).wf = true :=
  wf_writeByte _ (wf_writeByte _ (wf_writeByte _ (wf_writeByte _ h (byteKey_lt a (by decide))) (byteKey_lt a (by decide)))
    (byteKey_lt a (by decide))) (byteKey_lt a (by decide))

theorem Memory.readByte_writeWord_other (m : Memory) (a v : Word) {k : Nat} (h : k < byteKey a 0 ∨ byteKey a 3 < k) :
    (m.writeWord a v).readByte k = m.readByte k := by
  simp only [byteKey] at h
  simp only [Memory.writeWord]
  repeat rw [Memory.readByte_writeByte_other _ _ (by simp only [byteKey]; omega)]

theorem Memory.readByte_writeWord_byte (m : Memory) (a v : Word) {k : Nat} (h : k < 4) :
    (m.writeWord a v).readByte (byteKey a k) = some (byteOf v k) := by
  simp only [Memory.writeWord]
  obtain rfl | rfl | rfl | rfl : k = 0 ∨ k = 1 ∨ k = 2 ∨ k = 3 := by omega
  · rw [readByte_writeByte_other _ _ (by simp [byteKey]), readByte_writeByte_other _ _ (by simp [byteKey]),
      readByte_writeByte_other _ _ (by simp [byteKey]), readByte_writeByte_same]
  · rw [readByte_writeByte_other _ _ (by simp [byteKey]), readByte_writeByte_other _ _ (by simp [byteKey]),
      readByte_writeByte_same]
  · rw [readByte_writeByte_other _ _ (by simp [byteKey]), readByte_writeByte_same]
  · rw [readByte_writeByte_same]

theorem join_bytes (v : Word) : byteOf v 0 ++ byteOf v 1 ++ byteOf v 2 ++ byteOf v 3 = v := by
  apply BitVec.eq_of_getLsbD_eq
  intro i hi
  simp only [byteOf, BitVec.getLsbD_append, BitVec.getLsbD_extractLsb']
  by_cases h1 : i < 8
  · simp [h1]
  · by_cases h2 : i < 16
    · have : i - 8 < 8 := by omega
      simp [h1, this]; congr 1; omega
    · by_cases h3 : i < 24
      · have e1 : ¬ i - 8 < 8 := by omega
        have e2 : i - 8 - 8 < 8 := by omega
        simp [h1, e1, e2]; congr 1; omega
      · have e1 : ¬ i - 8 < 8 := by omega
        have e2 : ¬ i - 8 - 8 < 8 := by omega
        have e3 : i - 8 - 8 - 8 < 8 := by omega
        simp [h1, e1, e2, e3]; congr 1; omega

theorem Memory.readWord_writeWord_same (m : Memory) (a v : Word) : (m.writeWord a v).readWord a = some v := by
  simp only [Memory.readWord, Memory.readByte_writeWord_byte m a v (show 0 < 4 by decide),
    Memory.readByte_writeWord_byte m a v (show 1 < 4 by decide), Memory.readByte_writeWord_byte m a v (show 2 < 4 by decide),
    Memory.readByte_writeWord_byte m a v (show 3 < 4 by decide), join_bytes]

theorem Memory.readWord_writeWord_other (m : Memory) {a b : Word} (v : Word) (h : b ≠ a) :
    (m.writeWord a v).readWord b = m.readWord b := by
  have hn : b.toNat ≠ a.toNat := fun e => h (BitVec.eq_of_toNat_eq e)
  have key : ∀ k < 4, (m.writeWord a v).readByte (byteKey b k) = m.readByte (byteKey b k) := fun k hk =>
    Memory.readByte_writeWord_other m a v (by simp only [byteKey]; omega)
  simp only [Memory.readWord, key 0 (by decide), key 1 (by decide), key 2 (by decide), key 3 (by decide)]

/-- A word depends only on its four bytes. -/
theorem Memory.readWord_congr {m n : Memory} {a : Word}
    (h : ∀ k, byteKey a 0 ≤ k → k ≤ byteKey a 3 → m.readByte k = n.readByte k) : m.readWord a = n.readWord a := by
  have key : ∀ k < 4, m.readByte (byteKey a k) = n.readByte (byteKey a k) := fun k hk =>
    h _ (by simp only [byteKey]; omega) (by simp only [byteKey]; omega)
  simp only [Memory.readWord, key 0 (by decide), key 1 (by decide), key 2 (by decide), key 3 (by decide)]

end Sys2Proof.Machine
end

