-- ==== Sys2Proof/Laws/Ops.lean ====
section
/-! SUPPORT. For each shared operation, one lemma that says everything it can do when it answers a next state. -/

namespace Sys2Proof.Machine

@[simp] theorem andThen_next {α β : Type} (a : α) (k : α → Result β) : andThen (.next a) k = k a := rfl

/-- A sequence answers only if both parts do. -/
theorem andThen_eq_next {α β : Type} {r : Result α} {k : α → Result β} {b : β} :
    andThen r k = .next b ↔ ∃ a, r = .next a ∧ k a = .next b := by
  cases r <;> simp [andThen]

/-- Under any translation, a read answers exactly the word that is held where memory is (R53, R60, R42). -/
theorem State.readMemBy_eq_next {tr : Word → Word} {s : State} {a v : Word} :
    s.readMemBy tr a = .next v ↔ Readable s (tr a) v := by
  unfold State.readMemBy Readable
  cases kindAt s.memMap (tr a) with
  | none => simp
  | some k =>
    cases k with
    | device => simp
    | memory => cases s.mem.readWord (tr a) <;> simp

/-- Under any translation, a store answers exactly where there is memory and R67 admits it, and then changes that word
and the record of stores (R53, R67). -/
theorem State.writeMemBy_eq_next {tr : Word → Word} {s t : State} {a v : Word} :
    s.writeMemBy tr a v = .next t ↔
      (kindAt s.memMap (tr a) = some .memory ∧ a ≠ s.pc ∧ a ≠ s.pc + 1) ∧
        t = { s with mem := s.mem.writeWord (tr a) v, storesLast := a :: s.storesLast } := by
  unfold State.writeMemBy
  cases kindAt s.memMap (tr a) with
  | none => simp
  | some k =>
    cases k with
    | device => simp
    | memory =>
      by_cases h : a = s.pc ∨ a = s.pc + 1
      · simp only [h, if_true]; constructor
        · intro e; cases e
        · rintro ⟨⟨-, h1, h2⟩, -⟩; exact absurd h (not_or.2 ⟨h1, h2⟩)
      · simp only [h, if_false, Host.Outcome.next.injEq]
        rw [not_or] at h
        exact ⟨fun e => ⟨⟨trivial, h.1, h.2⟩, e.symm⟩, fun e => e.2.symm⟩

/-- A read answers exactly the word that is held where memory is (R53, R60, R42). -/
theorem State.readMem_eq_next {s : State} {a v : Word} : s.readMem a = .next v ↔ Readable s a v :=
  State.readMemBy_eq_next

/-- A store answers exactly where it is admitted, and then changes that word and the record of stores (R53, R67). -/
theorem State.writeMem_eq_next {s t : State} {a v : Word} :
    s.writeMem a v = .next t ↔
      Storable s a ∧ t = { s with mem := s.mem.writeWord a v, storesLast := a :: s.storesLast } :=
  State.writeMemBy_eq_next

/-- A two-word read answers exactly if both words do (R55). -/
theorem State.readMem2_eq_next {s : State} {a : Word} {d : Word64} :
    s.readMem2 a = .next d ↔ ∃ p q, Readable s a p ∧ Readable s (a + 1) q ∧ d = p ++ q := by
  simp only [State.readMem2, andThen_eq_next, State.readMem_eq_next, joinWords_eq,
    Host.Outcome.next.injEq]
  exact ⟨fun ⟨p, hp, q, hq, e⟩ => ⟨p, q, hp, hq, e.symm⟩, fun ⟨p, q, hp, hq, e⟩ => ⟨p, hp, q, hq, e.symm⟩⟩

/-- A two-word store answers exactly if both words are admitted (R55). -/
theorem State.writeMem2_eq_next {s t : State} {a : Word} {d : Word64} :
    s.writeMem2 a d = .next t ↔
      Storable s a ∧ Storable s (a + 1) ∧
        t = { s with
          mem := (s.mem.writeWord a (hi32 d)).writeWord (a + 1) (lo32 d)
          storesLast := (a + 1) :: a :: s.storesLast } := by
  simp only [State.writeMem2, andThen_eq_next, State.writeMem_eq_next, firstWord_eq, secondWord_eq]
  constructor
  · rintro ⟨u, ⟨h1, rfl⟩, h2, rfl⟩
    exact ⟨h1, h2, rfl⟩
  · rintro ⟨h1, h2, rfl⟩
    exact ⟨_, ⟨h1, rfl⟩, h2, rfl⟩

/-- `Push` (R57): the word goes below the stack pointer. -/
theorem State.push_eq_next {s t : State} {v : Word} :
    s.push v = .next t ↔
      Storable s (s.readReg spReg - 1) ∧
        t = { s.writeReg spReg (s.readReg spReg - 1) with
          mem := s.mem.writeWord (s.readReg spReg - 1) v
          storesLast := (s.readReg spReg - 1) :: s.storesLast } := by
  have hpc : (s.writeReg spReg (s.readReg spReg - 1)).pc = s.pc := State.writeReg_pc_of_ne s _ (by decide)
  simp only [State.push, spPushed_eq, pushAddr_eq, State.writeMem_eq_next, Storable, hpc,
    State.writeReg_memMap, State.writeReg_mem, State.writeReg_storesLast]

/-- `Pop` (R57): the word at the stack pointer, which then moves up. -/
theorem State.pop_eq_next {s t : State} {v : Word} :
    s.pop = .next (v, t) ↔ Readable s (s.readReg spReg) v ∧ t = s.writeReg spReg (s.readReg spReg + 1) := by
  simp only [State.pop, spPopped_eq, topAddr_eq, andThen_eq_next, State.readMem_eq_next,
    Host.Outcome.next.injEq, Prod.mk.injEq]
  exact ⟨fun ⟨w, h, e, e'⟩ => ⟨e ▸ h, e'.symm⟩, fun ⟨h, e⟩ => ⟨v, h, rfl, e.symm⟩⟩

/-- `Push2` (R57). -/
theorem State.push2_eq_next {s t : State} {d : Word64} :
    s.push2 d = .next t ↔
      Storable s (s.readReg spReg - 2) ∧ Storable s (s.readReg spReg - 2 + 1) ∧
        t = { s.writeReg spReg (s.readReg spReg - 2) with
          mem := (s.mem.writeWord (s.readReg spReg - 2) (hi32 d)).writeWord (s.readReg spReg - 2 + 1) (lo32 d)
          storesLast := (s.readReg spReg - 2 + 1) :: (s.readReg spReg - 2) :: s.storesLast } := by
  have hpc : (s.writeReg spReg (s.readReg spReg - 2)).pc = s.pc := State.writeReg_pc_of_ne s _ (by decide)
  simp only [State.push2, spPushed_eq, pushAddr_eq, State.writeMem2_eq_next, Storable, hpc,
    State.writeReg_memMap, State.writeReg_mem, State.writeReg_storesLast]

/-- `Pop2` (R57). -/
theorem State.pop2_eq_next {s t : State} {d : Word64} :
    s.pop2 = .next (d, t) ↔
      (∃ p q, Readable s (s.readReg spReg) p ∧ Readable s (s.readReg spReg + 1) q ∧ d = p ++ q) ∧
        t = s.writeReg spReg (s.readReg spReg + 2) := by
  simp only [State.pop2, spPopped_eq, topAddr_eq, andThen_eq_next, State.readMem2_eq_next,
    Host.Outcome.next.injEq, Prod.mk.injEq]
  exact ⟨fun ⟨w, h, e, e'⟩ => ⟨e ▸ h, e'.symm⟩, fun ⟨h, e⟩ => ⟨d, h, rfl, e.symm⟩⟩

/-- `PushS` (R57). -/
theorem State.pushS_eq_next {s t : State} {v : Word} :
    s.pushS v = .next t ↔
      Storable s (s.ssp - 1) ∧
        t = { s.setSsp (s.ssp - 1) with
          mem := s.mem.writeWord (s.ssp - 1) v
          storesLast := (s.ssp - 1) :: s.storesLast } := by
  simp only [State.pushS, spPushed_eq, pushAddr_eq, State.writeMem_eq_next, Storable, State.setSsp_memMap,
    State.setSsp_pc, State.setSsp_mem, State.setSsp_storesLast]

/-- `PopS` (R57). -/
theorem State.popS_eq_next {s t : State} {v : Word} :
    s.popS = .next (v, t) ↔ Readable s s.ssp v ∧ t = s.setSsp (s.ssp + 1) := by
  simp only [State.popS, spPopped_eq, topAddr_eq, andThen_eq_next, State.readMem_eq_next,
    Host.Outcome.next.injEq, Prod.mk.injEq]
  exact ⟨fun ⟨w, h, e, e'⟩ => ⟨e ▸ h, e'.symm⟩, fun ⟨h, e⟩ => ⟨v, h, rfl, e.symm⟩⟩

theorem State.pushAllS_cons_eq_next {s t : State} {v : Word} {rest : List Word} :
    s.pushAllS (v :: rest) = .next t ↔ ∃ u, s.pushS v = .next u ∧ u.pushAllS rest = .next t := by
  simp only [State.pushAllS, andThen_eq_next]

theorem State.popAllS_succ_eq_next {s t : State} {n : Nat} {l : List Word} :
    s.popAllS (n + 1) = .next (l, t) ↔
      ∃ v rest u, s.popS = .next (v, u) ∧ u.popAllS n = .next (rest, t) ∧ l = v :: rest := by
  simp only [State.popAllS, andThen_eq_next, Host.Outcome.next.injEq, Prod.mk.injEq]
  constructor
  · rintro ⟨⟨v, u⟩, hp, ⟨rest, t'⟩, hq, rfl, rfl⟩
    exact ⟨v, rest, u, hp, hq, rfl⟩
  · rintro ⟨v, rest, u, hp, hq, rfl⟩
    exact ⟨(v, u), hp, (rest, t), hq, rfl, rfl⟩

/-- A series of `PushS` changes the supervisor stack pointer, memory and the record of stores, and nothing else. -/
theorem State.pushAllS_shape {l : List Word} {s t : State} (h : s.pushAllS l = .next t) :
    ∃ m st, t = { s.setSsp (s.ssp - BitVec.ofNat 32 l.length) with mem := m, storesLast := st } ∧
      (s.mem.wf = true → m.wf = true) := by
  induction l generalizing s with
  | nil =>
    have e := Host.Outcome.next.inj h
    subst e
    refine ⟨s.mem, s.storesLast, ?_, id⟩
    simp [State.setSsp, State.ssp]
  | cons v rest ih =>
    obtain ⟨u, hu, hr⟩ := State.pushAllS_cons_eq_next.1 h
    obtain ⟨-, rfl⟩ := State.pushS_eq_next.1 hu
    obtain ⟨m, st, rfl, hm⟩ := ih hr
    refine ⟨m, st, ?_, fun hw => hm (Memory.wf_writeWord _ _ hw)⟩
    have hs : s.ssp - 1 - BitVec.ofNat 32 rest.length = s.ssp - BitVec.ofNat 32 (rest.length + 1) := by
      apply BitVec.eq_of_toNat_eq
      simp [BitVec.toNat_sub]; omega
    simp [State.setSsp, State.ssp] at hs ⊢
    exact hs ▸ rfl

/-- A series of `PopS` changes the supervisor stack pointer alone. -/
theorem State.popAllS_shape {n : Nat} {l : List Word} {s t : State} (h : s.popAllS n = .next (l, t)) :
    t = s.setSsp (s.ssp + BitVec.ofNat 32 n) ∧ l.length = n := by
  induction n generalizing s l with
  | zero =>
    simp only [State.popAllS, Host.Outcome.next.injEq, Prod.mk.injEq] at h
    obtain ⟨rfl, rfl⟩ := h
    exact ⟨by simp [State.setSsp, State.ssp], rfl⟩
  | succ n ih =>
    obtain ⟨v, rest, u, hp, hr, rfl⟩ := State.popAllS_succ_eq_next.1 h
    obtain ⟨-, rfl⟩ := State.popS_eq_next.1 hp
    obtain ⟨rfl, hl⟩ := ih hr
    refine ⟨?_, by simp [hl]⟩
    have hs : s.ssp + 1 + BitVec.ofNat 32 n = s.ssp + BitVec.ofNat 32 (n + 1) := by
      apply BitVec.eq_of_toNat_eq
      simp [BitVec.toNat_add]; omega
    simp [State.setSsp, State.ssp] at hs ⊢
    exact hs ▸ rfl

/-! ## The step -/

/-- What a step can do when it answers: the core waits, an interrupt is delivered, or the fetched instruction runs
(R40). -/
theorem step_eq_next {s t : State} (h : step s = .next t) :
    (s.arriveBetween.waits = true ∧ t = s.arriveBetween.arriveDuring) ∨
    (∃ n, s.arriveBetween.waits = false ∧ s.arriveBetween.wake.pendingInterrupt = some n ∧
      t = (s.arriveBetween.wake.deliver n).arriveDuring) ∨
    (∃ w i, s.arriveBetween.waits = false ∧ s.arriveBetween.wake.pendingInterrupt = none ∧
      s.arriveBetween.wake.fetch = .next w ∧ decode w = .ok i ∧
      exec i s.arriveBetween.wake.advance.arriveDuring = .next t) := by
  unfold step at h
  by_cases hw : s.arriveBetween.waits = true
  · simp only [hw, if_true, Host.Outcome.next.injEq] at h
    exact .inl ⟨hw, h.symm⟩
  · have hf : s.arriveBetween.waits = false := by simpa using hw
    simp only [hf, Bool.false_eq_true, if_false] at h
    cases hp : s.arriveBetween.wake.pendingInterrupt with
    | some n =>
      simp only [hp, Host.Outcome.next.injEq] at h
      exact .inr (.inl ⟨n, hf, rfl, h.symm⟩)
    | none =>
      simp only [hp, runInstr, andThen_eq_next] at h
      obtain ⟨w, hw', hd⟩ := h
      cases hdec : decode w with
      | error e => simp [hdec] at hd
      | ok i =>
        simp only [hdec] at hd
        exact .inr (.inr ⟨w, i, hf, rfl, hw', hdec, hd⟩)

/-- The word placed for the next step is the word that step fetches. -/
theorem State.placeFetchWord_readWord (s : State) (w : Word) :
    (s.placeFetchWord w).mem.readWord (s.placeFetchWord w).pc = some w := by
  simp [State.placeFetchWord, Memory.readWord_writeWord_same]

end Sys2Proof.Machine
end

