-- ==== Sys2Proof/Laws/PerInstr.lean ====
section
/-! SUPPORT. A fact about each instruction as syntax: its word has the fixed bits of its row of spec/opcode_table.json. -/

namespace Sys2Proof.Laws

/-- The word of each format as a number, from which every field of it is read off. -/
theorem encInt3_toNat {op : Nat} {x z : Reg} {y : Src} (hop : op < 16) :
    (encInt3 op x y z).toNat = 0x80000000 + op * 2 ^ 27 + x.val * 2 ^ 22 + srcField y * 2 ^ 5 + z.val := by
  have h1 := x.isLt
  have h2 := z.isLt
  cases y with
  | reg r => have h3 := r.isLt; simp only [encInt3, opNumber_int3Ops, regNumber_eq, srcField, BitVec.toNat_ofNat]; omega
  | lit v => simp only [encInt3, opNumber_int3Ops, regNumber_eq, srcField, fieldOf, BitVec.toNat_ofNat]; omega

theorem encInt2_toNat {op : Nat} {x : Reg} {y : Count} (hop : op < 16) (hy : y.wellFormed = true) :
    (encInt2 op x y).toNat = 0x40000000 + op * 2 ^ 26 + x.val * 2 ^ 21 + countField y * 2 ^ 15 := by
  have h1 := x.isLt
  cases y with
  | reg r =>
    have h3 := r.isLt
    simp only [encInt2, opNumber_int2Ops, regNumber_eq, countField, BitVec.toNat_ofNat]; omega
  | lit n =>
    simp only [Count.wellFormed, decide_eq_true_eq] at hy
    simp only [encInt2, opNumber_int2Ops, regNumber_eq, countField, BitVec.toNat_ofNat]; omega

theorem encInt1_toNat {op : Nat} {x : Target} (hop : op < 64) :
    (encInt1 op x).toNat = 0x20000000 + op * 2 ^ 23 + targetField x := by
  cases x with
  | reg r =>
    have h3 := r.isLt
    simp only [encInt1, opNumber_int1Ops, regNumber_eq, targetField, BitVec.toNat_ofNat]; omega
  | rel v => simp only [encInt1, opNumber_int1Ops, targetField, fieldOf, BitVec.toNat_ofNat]; omega

theorem encFp3_toNat {op : Nat} {f g h : FReg} (hop : op < 8) :
    (encFp3 op f g h).toNat = 0x18000000 + op * 2 ^ 24 + f.val * 2 ^ 20 + g.val * 2 ^ 16 + h.val * 2 ^ 12 := by
  have h1 := f.isLt
  have h2 := g.isLt
  have h3 := h.isLt
  simp only [encFp3, opNumber_fp3Ops, BitVec.toNat_ofNat]; omega

theorem encFp2_toNat {op a b : Nat} (hop : op < 16) (ha : a < 32) (hb : b < 32) :
    (encFp2 op a b).toNat = 0x14000000 + op * 2 ^ 22 + a * 2 ^ 17 + b * 2 ^ 12 := by
  simp only [encFp2, opNumber_fp2Ops, BitVec.toNat_ofNat]; omega

theorem encFp1_toNat {o : Fp1Op} {f : FReg} :
    (encFp1 o f).toNat = 0x12000000 + fp1Number o * 2 ^ 22 + f.val * 2 ^ 18 := by
  have h1 := f.isLt
  have h2 : fp1Number o < 8 := by cases o <;> decide
  simp only [encFp1, BitVec.toNat_ofNat]; omega

theorem encZero_toNat {op n : Nat} (hop : op < 32) (hn : n < 256) :
    (encZero op n).toNat = op * 2 ^ 23 + n * 2 ^ 15 := by
  simp only [encZero, opNumber_zeroOps, BitVec.toNat_ofNat]; omega

/-! ## The op field of each format -/

theorem encInt3_op {op : Nat} {x z : Reg} {y : Src} (hop : op < 16) : bits (encInt3 op x y z) 31 27 = 16 + op := by
  have h1 := x.isLt
  have h2 := z.isLt
  have h3 : srcField y < 2 ^ 17 := by
    cases y with
    | reg r => have := r.isLt; simp only [srcField, regNumber_eq]; omega
    | lit v => simp only [srcField, fieldOf]; omega
  simp only [bits, encInt3_toNat hop]; omega

theorem encInt2_op {op : Nat} {x : Reg} {y : Count} (hop : op < 16) (hy : y.wellFormed = true) :
    bits (encInt2 op x y) 31 26 = 16 + op := by
  have h1 := x.isLt
  have h3 : countField y < 2 ^ 6 := by
    cases y with
    | reg r => have := r.isLt; simp only [countField, regNumber_eq]; omega
    | lit n => simp only [Count.wellFormed, decide_eq_true_eq] at hy; simp only [countField]; omega
  simp only [bits, encInt2_toNat hop hy]; omega

theorem encInt2_mode {op : Nat} {x y : Reg} (hop : op < 16) : bits (encInt2 op x (.reg y)) 20 20 = 0 := by
  have h1 := x.isLt
  have h2 := y.isLt
  simp only [bits, encInt2_toNat hop (y := .reg y) rfl, countField, regNumber_eq]; omega

theorem encInt1_op {op : Nat} {x : Target} (hop : op < 64) : bits (encInt1 op x) 31 23 = 64 + op := by
  have h3 : targetField x < 2 ^ 23 := by
    cases x with
    | reg r => have := r.isLt; simp only [targetField, regNumber_eq]; omega
    | rel v => simp only [targetField, fieldOf]; omega
  simp only [bits, encInt1_toNat hop]; omega

theorem encInt1_reg {op : Nat} {x : Reg} (hop : op < 64) : bits (encInt1 op (.reg x)) 31 22 = 128 + 2 * op := by
  have h3 := x.isLt
  simp only [bits, encInt1_toNat hop, targetField, regNumber_eq]; omega

theorem encFp3_op {op : Nat} {f g h : FReg} (hop : op < 8) : bits (encFp3 op f g h) 31 24 = 24 + op := by
  have h1 := f.isLt
  have h2 := g.isLt
  have h3 := h.isLt
  simp only [bits, encFp3_toNat hop]; omega

theorem encFp2_op {op a b : Nat} (hop : op < 16) (ha : a < 32) (hb : b < 32) :
    bits (encFp2 op a b) 31 22 = 80 + op := by
  simp only [bits, encFp2_toNat hop ha hb]; omega

theorem encFp1_op {o : Fp1Op} {f : FReg} : bits (encFp1 o f) 31 22 = 72 + fp1Number o := by
  have h1 := f.isLt
  have h2 : fp1Number o < 8 := by cases o <;> decide
  simp only [bits, encFp1_toNat]; omega

theorem encZero_op {op n : Nat} (hop : op < 32) (hn : n < 256) : bits (encZero op n) 31 23 = op := by
  simp only [bits, encZero_toNat hop hn]; omega

/-- The fixed bits of an instruction's row: high bit, low bit, value. -/
def fixedBits : Instr → List (Nat × Nat × Nat)
  | .and _ _ _ => [(31, 27, 16)]
  | .or _ _ _ => [(31, 27, 17)]
  | .xor _ _ _ => [(31, 27, 18)]
  | .add _ _ _ => [(31, 27, 19)]
  | .sub _ _ _ => [(31, 27, 20)]
  | .addc _ _ _ => [(31, 27, 21)]
  | .subc _ _ _ => [(31, 27, 22)]
  | .mullo _ _ _ => [(31, 27, 23)]
  | .mulhi _ _ _ => [(31, 27, 24)]
  | .mulslo _ _ _ => [(31, 27, 25)]
  | .mulshi _ _ _ => [(31, 27, 26)]
  | .div _ _ _ => [(31, 27, 27)]
  | .divs _ _ _ => [(31, 27, 28)]
  | .mod _ _ _ => [(31, 27, 29)]
  | .mods _ _ _ => [(31, 27, 30)]
  | .ld _ _ => [(20, 20, 0), (31, 26, 16)]
  | .st _ _ => [(20, 20, 0), (31, 26, 17)]
  | .cp _ _ => [(20, 20, 0), (31, 26, 18)]
  | .cmp _ _ => [(20, 20, 0), (31, 26, 19)]
  | .bit _ _ => [(20, 20, 0), (31, 26, 20)]
  | .asl _ _ => [(31, 26, 21)]
  | .asr _ _ => [(31, 26, 22)]
  | .shl _ _ => [(31, 26, 23)]
  | .shr _ _ => [(31, 26, 24)]
  | .rol _ _ => [(31, 26, 25)]
  | .ror _ _ => [(31, 26, 26)]
  | .push _ => [(31, 22, 128)]
  | .pop _ => [(31, 22, 130)]
  | .nor _ => [(31, 22, 132)]
  | .neg _ => [(31, 22, 134)]
  | .clr _ => [(31, 22, 136)]
  | .set _ => [(31, 22, 138)]
  | .inc _ => [(31, 22, 140)]
  | .dec _ => [(31, 22, 142)]
  | .beq _ => [(31, 23, 72)]
  | .bne _ => [(31, 23, 73)]
  | .bgt _ => [(31, 23, 74)]
  | .blt _ => [(31, 23, 75)]
  | .bge _ => [(31, 23, 76)]
  | .bpl _ => [(31, 23, 77)]
  | .bmi _ => [(31, 23, 78)]
  | .bvc _ => [(31, 23, 79)]
  | .bvs _ => [(31, 23, 80)]
  | .bcc _ => [(31, 23, 81)]
  | .bcs _ => [(31, 23, 82)]
  | .bfeq _ => [(31, 23, 83)]
  | .bfne _ => [(31, 23, 84)]
  | .bfgt _ => [(31, 23, 85)]
  | .bflt _ => [(31, 23, 86)]
  | .bfge _ => [(31, 23, 87)]
  | .bfpl _ => [(31, 23, 88)]
  | .bfmi _ => [(31, 23, 89)]
  | .bfinf _ => [(31, 23, 90)]
  | .bfninf _ => [(31, 23, 91)]
  | .bfnnf _ => [(31, 23, 92)]
  | .bfnnnf _ => [(31, 23, 93)]
  | .bfnan _ => [(31, 23, 94)]
  | .bfnnan _ => [(31, 23, 95)]
  | .bfdn _ => [(31, 23, 96)]
  | .bfndn _ => [(31, 23, 97)]
  | .jmp _ => [(31, 23, 98)]
  | .call _ => [(31, 23, 99)]
  | .fadd _ _ _ => [(31, 24, 24)]
  | .fsub _ _ _ => [(31, 24, 25)]
  | .fmul _ _ _ => [(31, 24, 26)]
  | .fdiv _ _ _ => [(31, 24, 27)]
  | .fatan _ _ _ => [(31, 24, 28)]
  | .fld _ _ => [(31, 22, 80)]
  | .fst _ _ => [(31, 22, 81)]
  | .fcp _ _ => [(31, 22, 82)]
  | .fitof _ _ => [(31, 22, 83)]
  | .fftoi _ _ => [(31, 22, 84)]
  | .fsqrt _ _ => [(31, 22, 85)]
  | .fsin _ _ => [(31, 22, 86)]
  | .fcos _ _ => [(31, 22, 87)]
  | .flog _ _ => [(31, 22, 88)]
  | .fexp _ _ => [(31, 22, 89)]
  | .fcmp _ _ => [(31, 22, 90)]
  | .fclr _ => [(31, 22, 72)]
  | .fpush _ => [(31, 22, 73)]
  | .fpop _ => [(31, 22, 74)]
  | .fneg _ => [(31, 22, 75)]
  | .fabs _ => [(31, 22, 76)]
  | .fpi _ => [(31, 22, 77)]
  | .fe _ => [(31, 22, 78)]
  | .nop => [(31, 23, 0)]
  | .pushs => [(31, 23, 1)]
  | .pops => [(31, 23, 2)]
  | .clrz => [(31, 23, 3)]
  | .clrn => [(31, 23, 4)]
  | .clrc => [(31, 23, 5)]
  | .clrv => [(31, 23, 6)]
  | .setz => [(31, 23, 7)]
  | .setn => [(31, 23, 8)]
  | .setc => [(31, 23, 9)]
  | .setv => [(31, 23, 10)]
  | .jsr => [(31, 23, 11)]
  | .rts => [(31, 23, 12)]
  | .ret => [(31, 23, 13)]
  | .rti => [(31, 23, 14)]
  | .int _ => [(31, 23, 15)]
  | .stop => [(31, 23, 16)]
  | .pushu => [(31, 23, 17)]
  | .popu => [(31, 23, 18)]
  | .user => [(31, 23, 19)]
  | .simdNop => [(31, 0, 285212672)]

/-- The instruction's word has the fixed bits of its row. -/
def FixedBits.Statement (i : Instr) : Prop :=
  i.wellFormed = true → ∀ f ∈ fixedBits i, bits (encode i) f.1 f.2.1 = f.2.2

/-- A row with one run of fixed bits. -/
theorem FixedBits.of_one {i : Instr} {hi lo v : Nat} (hf : fixedBits i = [(hi, lo, v)])
    (h : i.wellFormed = true → bits (encode i) hi lo = v) : FixedBits.Statement i := by
  intro hw f hm
  rw [hf, List.mem_singleton] at hm
  subst hm
  exact h hw

/-- A row with two runs of fixed bits. -/
theorem FixedBits.of_two {i : Instr} {hi lo v hi' lo' v' : Nat} (hf : fixedBits i = [(hi, lo, v), (hi', lo', v')])
    (h : bits (encode i) hi lo = v) (h' : bits (encode i) hi' lo' = v') : FixedBits.Statement i := by
  intro _ f hm
  rw [hf, List.mem_cons, List.mem_singleton] at hm
  rcases hm with rfl | rfl
  · exact h
  · exact h'

theorem FixedBits.and (x : Reg) (y : Src) (z : Reg) : FixedBits.Statement (.and x y z) :=
  FixedBits.of_one rfl fun _ => encInt3_op (by decide)

theorem FixedBits.or (x : Reg) (y : Src) (z : Reg) : FixedBits.Statement (.or x y z) :=
  FixedBits.of_one rfl fun _ => encInt3_op (by decide)

theorem FixedBits.xor (x : Reg) (y : Src) (z : Reg) : FixedBits.Statement (.xor x y z) :=
  FixedBits.of_one rfl fun _ => encInt3_op (by decide)

theorem FixedBits.add (x : Reg) (y : Src) (z : Reg) : FixedBits.Statement (.add x y z) :=
  FixedBits.of_one rfl fun _ => encInt3_op (by decide)

theorem FixedBits.sub (x : Reg) (y : Src) (z : Reg) : FixedBits.Statement (.sub x y z) :=
  FixedBits.of_one rfl fun _ => encInt3_op (by decide)

theorem FixedBits.addc (x : Reg) (y : Src) (z : Reg) : FixedBits.Statement (.addc x y z) :=
  FixedBits.of_one rfl fun _ => encInt3_op (by decide)

theorem FixedBits.subc (x : Reg) (y : Src) (z : Reg) : FixedBits.Statement (.subc x y z) :=
  FixedBits.of_one rfl fun _ => encInt3_op (by decide)

theorem FixedBits.mullo (x : Reg) (y : Src) (z : Reg) : FixedBits.Statement (.mullo x y z) :=
  FixedBits.of_one rfl fun _ => encInt3_op (by decide)

theorem FixedBits.mulhi (x : Reg) (y : Src) (z : Reg) : FixedBits.Statement (.mulhi x y z) :=
  FixedBits.of_one rfl fun _ => encInt3_op (by decide)

theorem FixedBits.mulslo (x : Reg) (y : Src) (z : Reg) : FixedBits.Statement (.mulslo x y z) :=
  FixedBits.of_one rfl fun _ => encInt3_op (by decide)

theorem FixedBits.mulshi (x : Reg) (y : Src) (z : Reg) : FixedBits.Statement (.mulshi x y z) :=
  FixedBits.of_one rfl fun _ => encInt3_op (by decide)

theorem FixedBits.div (x : Reg) (y : Src) (z : Reg) : FixedBits.Statement (.div x y z) :=
  FixedBits.of_one rfl fun _ => encInt3_op (by decide)

theorem FixedBits.divs (x : Reg) (y : Src) (z : Reg) : FixedBits.Statement (.divs x y z) :=
  FixedBits.of_one rfl fun _ => encInt3_op (by decide)

theorem FixedBits.mod (x : Reg) (y : Src) (z : Reg) : FixedBits.Statement (.mod x y z) :=
  FixedBits.of_one rfl fun _ => encInt3_op (by decide)

theorem FixedBits.mods (x : Reg) (y : Src) (z : Reg) : FixedBits.Statement (.mods x y z) :=
  FixedBits.of_one rfl fun _ => encInt3_op (by decide)

theorem FixedBits.ld (x y : Reg) : FixedBits.Statement (.ld x y) :=
  FixedBits.of_two rfl (encInt2_mode (by decide)) (encInt2_op (by decide) rfl)

theorem FixedBits.st (x y : Reg) : FixedBits.Statement (.st x y) :=
  FixedBits.of_two rfl (encInt2_mode (by decide)) (encInt2_op (by decide) rfl)

theorem FixedBits.cp (x y : Reg) : FixedBits.Statement (.cp x y) :=
  FixedBits.of_two rfl (encInt2_mode (by decide)) (encInt2_op (by decide) rfl)

theorem FixedBits.cmp (x y : Reg) : FixedBits.Statement (.cmp x y) :=
  FixedBits.of_two rfl (encInt2_mode (by decide)) (encInt2_op (by decide) rfl)

theorem FixedBits.bit (x y : Reg) : FixedBits.Statement (.bit x y) :=
  FixedBits.of_two rfl (encInt2_mode (by decide)) (encInt2_op (by decide) rfl)

theorem FixedBits.asl (x : Reg) (y : Count) : FixedBits.Statement (.asl x y) :=
  FixedBits.of_one rfl fun h => encInt2_op (by decide) h

theorem FixedBits.asr (x : Reg) (y : Count) : FixedBits.Statement (.asr x y) :=
  FixedBits.of_one rfl fun h => encInt2_op (by decide) h

theorem FixedBits.shl (x : Reg) (y : Count) : FixedBits.Statement (.shl x y) :=
  FixedBits.of_one rfl fun h => encInt2_op (by decide) h

theorem FixedBits.shr (x : Reg) (y : Count) : FixedBits.Statement (.shr x y) :=
  FixedBits.of_one rfl fun h => encInt2_op (by decide) h

theorem FixedBits.rol (x : Reg) (y : Count) : FixedBits.Statement (.rol x y) :=
  FixedBits.of_one rfl fun h => encInt2_op (by decide) h

theorem FixedBits.ror (x : Reg) (y : Count) : FixedBits.Statement (.ror x y) :=
  FixedBits.of_one rfl fun h => encInt2_op (by decide) h

theorem FixedBits.push (x : Reg) : FixedBits.Statement (.push x) :=
  FixedBits.of_one rfl fun _ => encInt1_reg (by decide)

theorem FixedBits.pop (x : Reg) : FixedBits.Statement (.pop x) :=
  FixedBits.of_one rfl fun _ => encInt1_reg (by decide)

theorem FixedBits.nor (x : Reg) : FixedBits.Statement (.nor x) :=
  FixedBits.of_one rfl fun _ => encInt1_reg (by decide)

theorem FixedBits.neg (x : Reg) : FixedBits.Statement (.neg x) :=
  FixedBits.of_one rfl fun _ => encInt1_reg (by decide)

theorem FixedBits.clr (x : Reg) : FixedBits.Statement (.clr x) :=
  FixedBits.of_one rfl fun _ => encInt1_reg (by decide)

theorem FixedBits.set (x : Reg) : FixedBits.Statement (.set x) :=
  FixedBits.of_one rfl fun _ => encInt1_reg (by decide)

theorem FixedBits.inc (x : Reg) : FixedBits.Statement (.inc x) :=
  FixedBits.of_one rfl fun _ => encInt1_reg (by decide)

theorem FixedBits.dec (x : Reg) : FixedBits.Statement (.dec x) :=
  FixedBits.of_one rfl fun _ => encInt1_reg (by decide)

theorem FixedBits.beq (x : Target) : FixedBits.Statement (.beq x) :=
  FixedBits.of_one rfl fun _ => encInt1_op (by decide)

theorem FixedBits.bne (x : Target) : FixedBits.Statement (.bne x) :=
  FixedBits.of_one rfl fun _ => encInt1_op (by decide)

theorem FixedBits.bgt (x : Target) : FixedBits.Statement (.bgt x) :=
  FixedBits.of_one rfl fun _ => encInt1_op (by decide)

theorem FixedBits.blt (x : Target) : FixedBits.Statement (.blt x) :=
  FixedBits.of_one rfl fun _ => encInt1_op (by decide)

theorem FixedBits.bge (x : Target) : FixedBits.Statement (.bge x) :=
  FixedBits.of_one rfl fun _ => encInt1_op (by decide)

theorem FixedBits.bpl (x : Target) : FixedBits.Statement (.bpl x) :=
  FixedBits.of_one rfl fun _ => encInt1_op (by decide)

theorem FixedBits.bmi (x : Target) : FixedBits.Statement (.bmi x) :=
  FixedBits.of_one rfl fun _ => encInt1_op (by decide)

theorem FixedBits.bvc (x : Target) : FixedBits.Statement (.bvc x) :=
  FixedBits.of_one rfl fun _ => encInt1_op (by decide)

theorem FixedBits.bvs (x : Target) : FixedBits.Statement (.bvs x) :=
  FixedBits.of_one rfl fun _ => encInt1_op (by decide)

theorem FixedBits.bcc (x : Target) : FixedBits.Statement (.bcc x) :=
  FixedBits.of_one rfl fun _ => encInt1_op (by decide)

theorem FixedBits.bcs (x : Target) : FixedBits.Statement (.bcs x) :=
  FixedBits.of_one rfl fun _ => encInt1_op (by decide)

theorem FixedBits.bfeq (x : Target) : FixedBits.Statement (.bfeq x) :=
  FixedBits.of_one rfl fun _ => encInt1_op (by decide)

theorem FixedBits.bfne (x : Target) : FixedBits.Statement (.bfne x) :=
  FixedBits.of_one rfl fun _ => encInt1_op (by decide)

theorem FixedBits.bfgt (x : Target) : FixedBits.Statement (.bfgt x) :=
  FixedBits.of_one rfl fun _ => encInt1_op (by decide)

theorem FixedBits.bflt (x : Target) : FixedBits.Statement (.bflt x) :=
  FixedBits.of_one rfl fun _ => encInt1_op (by decide)

theorem FixedBits.bfge (x : Target) : FixedBits.Statement (.bfge x) :=
  FixedBits.of_one rfl fun _ => encInt1_op (by decide)

theorem FixedBits.bfpl (x : Target) : FixedBits.Statement (.bfpl x) :=
  FixedBits.of_one rfl fun _ => encInt1_op (by decide)

theorem FixedBits.bfmi (x : Target) : FixedBits.Statement (.bfmi x) :=
  FixedBits.of_one rfl fun _ => encInt1_op (by decide)

theorem FixedBits.bfinf (x : Target) : FixedBits.Statement (.bfinf x) :=
  FixedBits.of_one rfl fun _ => encInt1_op (by decide)

theorem FixedBits.bfninf (x : Target) : FixedBits.Statement (.bfninf x) :=
  FixedBits.of_one rfl fun _ => encInt1_op (by decide)

theorem FixedBits.bfnnf (x : Target) : FixedBits.Statement (.bfnnf x) :=
  FixedBits.of_one rfl fun _ => encInt1_op (by decide)

theorem FixedBits.bfnnnf (x : Target) : FixedBits.Statement (.bfnnnf x) :=
  FixedBits.of_one rfl fun _ => encInt1_op (by decide)

theorem FixedBits.bfnan (x : Target) : FixedBits.Statement (.bfnan x) :=
  FixedBits.of_one rfl fun _ => encInt1_op (by decide)

theorem FixedBits.bfnnan (x : Target) : FixedBits.Statement (.bfnnan x) :=
  FixedBits.of_one rfl fun _ => encInt1_op (by decide)

theorem FixedBits.bfdn (x : Target) : FixedBits.Statement (.bfdn x) :=
  FixedBits.of_one rfl fun _ => encInt1_op (by decide)

theorem FixedBits.bfndn (x : Target) : FixedBits.Statement (.bfndn x) :=
  FixedBits.of_one rfl fun _ => encInt1_op (by decide)

theorem FixedBits.jmp (x : Target) : FixedBits.Statement (.jmp x) :=
  FixedBits.of_one rfl fun _ => encInt1_op (by decide)

theorem FixedBits.call (x : Target) : FixedBits.Statement (.call x) :=
  FixedBits.of_one rfl fun _ => encInt1_op (by decide)

theorem FixedBits.fadd (f g h : FReg) : FixedBits.Statement (.fadd f g h) :=
  FixedBits.of_one rfl fun _ => encFp3_op (by decide)

theorem FixedBits.fsub (f g h : FReg) : FixedBits.Statement (.fsub f g h) :=
  FixedBits.of_one rfl fun _ => encFp3_op (by decide)

theorem FixedBits.fmul (f g h : FReg) : FixedBits.Statement (.fmul f g h) :=
  FixedBits.of_one rfl fun _ => encFp3_op (by decide)

theorem FixedBits.fdiv (f g h : FReg) : FixedBits.Statement (.fdiv f g h) :=
  FixedBits.of_one rfl fun _ => encFp3_op (by decide)

theorem FixedBits.fatan (f g h : FReg) : FixedBits.Statement (.fatan f g h) :=
  FixedBits.of_one rfl fun _ => encFp3_op (by decide)

theorem FixedBits.fld (x : Reg) (g : FReg) : FixedBits.Statement (.fld x g) :=
  FixedBits.of_one rfl fun _ => encFp2_op (by decide) (regNumber_lt x) (by omega)

theorem FixedBits.fst (x : Reg) (g : FReg) : FixedBits.Statement (.fst x g) :=
  FixedBits.of_one rfl fun _ => encFp2_op (by decide) (regNumber_lt x) (by omega)

theorem FixedBits.fcp (f g : FReg) : FixedBits.Statement (.fcp f g) :=
  FixedBits.of_one rfl fun _ => encFp2_op (by decide) (by omega) (by omega)

theorem FixedBits.fitof (x : Reg) (g : FReg) : FixedBits.Statement (.fitof x g) :=
  FixedBits.of_one rfl fun _ => encFp2_op (by decide) (regNumber_lt x) (by omega)

theorem FixedBits.fftoi (f : FReg) (y : Reg) : FixedBits.Statement (.fftoi f y) :=
  FixedBits.of_one rfl fun _ => encFp2_op (by decide) (by omega) (regNumber_lt y)

theorem FixedBits.fsqrt (f g : FReg) : FixedBits.Statement (.fsqrt f g) :=
  FixedBits.of_one rfl fun _ => encFp2_op (by decide) (by omega) (by omega)

theorem FixedBits.fsin (f g : FReg) : FixedBits.Statement (.fsin f g) :=
  FixedBits.of_one rfl fun _ => encFp2_op (by decide) (by omega) (by omega)

theorem FixedBits.fcos (f g : FReg) : FixedBits.Statement (.fcos f g) :=
  FixedBits.of_one rfl fun _ => encFp2_op (by decide) (by omega) (by omega)

theorem FixedBits.flog (f g : FReg) : FixedBits.Statement (.flog f g) :=
  FixedBits.of_one rfl fun _ => encFp2_op (by decide) (by omega) (by omega)

theorem FixedBits.fexp (f g : FReg) : FixedBits.Statement (.fexp f g) :=
  FixedBits.of_one rfl fun _ => encFp2_op (by decide) (by omega) (by omega)

theorem FixedBits.fcmp (f g : FReg) : FixedBits.Statement (.fcmp f g) :=
  FixedBits.of_one rfl fun _ => encFp2_op (by decide) (by omega) (by omega)

theorem FixedBits.fclr (f : FReg) : FixedBits.Statement (.fclr f) :=
  FixedBits.of_one rfl fun _ => encFp1_op

theorem FixedBits.fpush (f : FReg) : FixedBits.Statement (.fpush f) :=
  FixedBits.of_one rfl fun _ => encFp1_op

theorem FixedBits.fpop (f : FReg) : FixedBits.Statement (.fpop f) :=
  FixedBits.of_one rfl fun _ => encFp1_op

theorem FixedBits.fneg (f : FReg) : FixedBits.Statement (.fneg f) :=
  FixedBits.of_one rfl fun _ => encFp1_op

theorem FixedBits.fabs (f : FReg) : FixedBits.Statement (.fabs f) :=
  FixedBits.of_one rfl fun _ => encFp1_op

theorem FixedBits.fpi (f : FReg) : FixedBits.Statement (.fpi f) :=
  FixedBits.of_one rfl fun _ => encFp1_op

theorem FixedBits.fe (f : FReg) : FixedBits.Statement (.fe f) :=
  FixedBits.of_one rfl fun _ => encFp1_op

theorem FixedBits.nop : FixedBits.Statement .nop :=
  FixedBits.of_one rfl fun _ => by decide

theorem FixedBits.pushs : FixedBits.Statement .pushs :=
  FixedBits.of_one rfl fun _ => by decide

theorem FixedBits.pops : FixedBits.Statement .pops :=
  FixedBits.of_one rfl fun _ => by decide

theorem FixedBits.clrz : FixedBits.Statement .clrz :=
  FixedBits.of_one rfl fun _ => by decide

theorem FixedBits.clrn : FixedBits.Statement .clrn :=
  FixedBits.of_one rfl fun _ => by decide

theorem FixedBits.clrc : FixedBits.Statement .clrc :=
  FixedBits.of_one rfl fun _ => by decide

theorem FixedBits.clrv : FixedBits.Statement .clrv :=
  FixedBits.of_one rfl fun _ => by decide

theorem FixedBits.setz : FixedBits.Statement .setz :=
  FixedBits.of_one rfl fun _ => by decide

theorem FixedBits.setn : FixedBits.Statement .setn :=
  FixedBits.of_one rfl fun _ => by decide

theorem FixedBits.setc : FixedBits.Statement .setc :=
  FixedBits.of_one rfl fun _ => by decide

theorem FixedBits.setv : FixedBits.Statement .setv :=
  FixedBits.of_one rfl fun _ => by decide

theorem FixedBits.jsr : FixedBits.Statement .jsr :=
  FixedBits.of_one rfl fun _ => by decide

theorem FixedBits.rts : FixedBits.Statement .rts :=
  FixedBits.of_one rfl fun _ => by decide

theorem FixedBits.ret : FixedBits.Statement .ret :=
  FixedBits.of_one rfl fun _ => by decide

theorem FixedBits.rti : FixedBits.Statement .rti :=
  FixedBits.of_one rfl fun _ => by decide

theorem FixedBits.int (n : Nat) : FixedBits.Statement (.int n) :=
  FixedBits.of_one rfl fun h => encZero_op (by decide) (of_decide_eq_true h)

theorem FixedBits.stop : FixedBits.Statement .stop :=
  FixedBits.of_one rfl fun _ => by decide

theorem FixedBits.pushu : FixedBits.Statement .pushu :=
  FixedBits.of_one rfl fun _ => by decide

theorem FixedBits.popu : FixedBits.Statement .popu :=
  FixedBits.of_one rfl fun _ => by decide

theorem FixedBits.user : FixedBits.Statement .user :=
  FixedBits.of_one rfl fun _ => by decide

theorem FixedBits.simdNop : FixedBits.Statement .simdNop :=
  FixedBits.of_one rfl fun _ => by decide

end Sys2Proof.Laws
end

