-- ==== Sys2Proof/Laws/Stacks.lean ====
section
/-! SUPPORT. What a series of stores or reads on the supervisor stack does, in full: `call`, `ret`, `pushu` and `popu` are
made of these. -/

namespace Sys2Proof.Machine

/-! ## Series of stores -/

/-- The words `l` with the addresses they take below `sp`, the first one highest. -/
def frameBelow (sp : Word) : List Word → List (Word × Word)
  | [] => []
  | v :: rest => (sp - 1, v) :: frameBelow (sp - 1) rest

/-- The words of a list stored in order. -/
def Memory.writeAll (m : Memory) : List (Word × Word) → Memory
  | [] => m
  | p :: rest => Memory.writeAll (m.writeWord p.1 p.2) rest

theorem sub_one_sub (a : Word) (n : Nat) : a - 1 - BitVec.ofNat 32 n = a - BitVec.ofNat 32 (n + 1) := by
  apply BitVec.eq_of_toNat_eq
  simp [BitVec.toNat_sub]; omega

theorem add_one_add (a : Word) (n : Nat) : a + 1 + BitVec.ofNat 32 n = a + BitVec.ofNat 32 (n + 1) := by
  apply BitVec.eq_of_toNat_eq
  simp [BitVec.toNat_add]; omega

theorem length_frameBelow (l : List Word) (sp : Word) : (frameBelow sp l).length = l.length := by
  induction l generalizing sp with
  | nil => rfl
  | cons v rest ih => simp [frameBelow, ih]

/-- The `k`-th word of a frame lies `k + 1` below its top. -/
theorem getElem_frameBelow (l : List Word) (sp : Word) {k : Nat} (h : k < l.length) :
    (frameBelow sp l)[k]'(by rw [length_frameBelow]; exact h) = (sp - BitVec.ofNat 32 (k + 1), l[k]) := by
  induction l generalizing sp k with
  | nil => simp at h
  | cons v rest ih =>
    cases k with
    | zero => simp [frameBelow]
    | succ k =>
      have := ih (sp - 1) (k := k) (by simpa using h)
      simp only [frameBelow, List.getElem_cons_succ, this, sub_one_sub]

/-- Distinct places of a frame have distinct addresses. -/
theorem nodup_frameBelow {l : List Word} (sp : Word) (h : l.length ≤ 2 ^ 32) :
    ((frameBelow sp l).map Prod.fst).Nodup := by
  rw [List.nodup_iff_injective_getElem]
  rintro ⟨i, hi⟩ ⟨j, hj⟩ e
  simp only [List.length_map, length_frameBelow] at hi hj
  simp only [List.getElem_map, getElem_frameBelow l sp hi, getElem_frameBelow l sp hj] at e
  have := congrArg BitVec.toNat e
  simp only [BitVec.toNat_sub, BitVec.toNat_ofNat] at this
  have hs := sp.isLt
  simp only [Fin.mk.injEq]
  omega

/-- A series of stores leaves alone every byte outside the stored words. -/
theorem Memory.readByte_writeAll_other {l : List (Word × Word)} (m : Memory) {k : Nat}
    (h : ∀ p ∈ l, Outside p.1 k) : (m.writeAll l).readByte k = m.readByte k := by
  induction l generalizing m with
  | nil => rfl
  | cons p rest ih =>
    rw [Memory.writeAll, ih _ fun q hq => h q (List.mem_cons_of_mem _ hq)]
    exact Memory.readByte_writeWord_other m p.1 p.2 (h p List.mem_cons_self)

theorem Memory.readWord_writeAll_other {l : List (Word × Word)} (m : Memory) {a : Word}
    (h : a ∉ l.map Prod.fst) : (m.writeAll l).readWord a = m.readWord a := by
  induction l generalizing m with
  | nil => rfl
  | cons p rest ih =>
    simp only [List.map_cons, List.mem_cons, not_or] at h
    rw [Memory.writeAll, ih _ h.2, Memory.readWord_writeWord_other _ _ h.1]

/-- A series of stores to distinct addresses leaves every one of its words in memory. -/
theorem Memory.readWord_writeAll {l : List (Word × Word)} (m : Memory) (hn : (l.map Prod.fst).Nodup) :
    ∀ p ∈ l, (m.writeAll l).readWord p.1 = some p.2 := by
  induction l generalizing m with
  | nil => simp
  | cons q rest ih =>
    simp only [List.map_cons, List.nodup_cons] at hn
    intro p hp
    rcases List.mem_cons.1 hp with rfl | hp
    · rw [Memory.writeAll, Memory.readWord_writeAll_other _ hn.1, Memory.readWord_writeWord_same]
    · exact ih _ hn.2 p hp

theorem Memory.wf_writeAll {l : List (Word × Word)} {m : Memory} (h : m.wf = true) : (m.writeAll l).wf = true := by
  induction l generalizing m with
  | nil => exact h
  | cons p rest ih => exact ih (Memory.wf_writeWord _ _ h)

/-- A series of `PushS` answers exactly where every store of it is admitted, and then this is the state. -/
theorem State.pushAllS_eq_next {l : List Word} {s t : State} :
    s.pushAllS l = .next t ↔
      (∀ p ∈ frameBelow s.ssp l, Storable s p.1) ∧
        t = { s.setSsp (s.ssp - BitVec.ofNat 32 l.length) with
          mem := s.mem.writeAll (frameBelow s.ssp l)
          storesLast := ((frameBelow s.ssp l).map Prod.fst).reverse ++ s.storesLast } := by
  induction l generalizing s with
  | nil =>
    simp only [State.pushAllS, Host.Outcome.next.injEq, frameBelow, List.not_mem_nil, false_implies, implies_true, true_and,
      List.length_nil, Memory.writeAll, List.map_nil, List.reverse_nil, List.nil_append]
    have : { s.setSsp (s.ssp - BitVec.ofNat 32 0) with mem := s.mem, storesLast := s.storesLast } = s := by
      simp [State.setSsp, State.ssp]
    rw [this]; exact eq_comm
  | cons v rest ih =>
    rw [State.pushAllS_cons_eq_next]
    simp only [State.pushS_eq_next, frameBelow, List.forall_mem_cons]
    have hsp : ∀ (m : Memory) (st : List Word),
        ({ s.setSsp (s.ssp - 1) with mem := m, storesLast := st } : State).ssp = s.ssp - 1 :=
      fun _ _ => State.setSsp_ssp s _
    have key : ∀ sp' : Word, ({ s.setSsp (s.ssp - 1) with
          mem := s.mem.writeWord (s.ssp - 1) v, storesLast := (s.ssp - 1) :: s.storesLast } : State).setSsp sp' =
        { s.setSsp sp' with mem := s.mem.writeWord (s.ssp - 1) v, storesLast := (s.ssp - 1) :: s.storesLast } := by
      intro sp'; simp [State.setSsp]
    have app : ∀ l : List (Word × Word), (l.map Prod.fst).reverse ++ (s.ssp - 1) :: s.storesLast =
        (((s.ssp - 1, v) :: l).map Prod.fst).reverse ++ s.storesLast := by simp
    constructor
    · rintro ⟨u, ⟨h1, rfl⟩, h2⟩
      obtain ⟨h3, e⟩ := ih.1 h2
      rw [hsp] at h3
      rw [hsp, key, sub_one_sub] at e
      exact ⟨⟨h1, h3⟩, by rw [e, ← app]; rfl⟩
    · rintro ⟨⟨h1, h2⟩, e⟩
      refine ⟨_, ⟨h1, rfl⟩, ih.2 ?_⟩
      rw [hsp, key, sub_one_sub]
      exact ⟨h2, by rw [e, ← app]; rfl⟩

/-- What `Stores` asks of a series of `PushS`. -/
theorem stores_writeAll {s t : State} {l : List (Word × Word)} (hn : (l.map Prod.fst).Nodup)
    (hm : t.mem = s.mem.writeAll l) (hs : t.storesLast = (l.map Prod.fst).reverse ++ s.storesLast) : Stores s t l :=
  ⟨fun p hp => hm ▸ Memory.readWord_writeAll s.mem hn p hp, fun _ h => hm ▸ Memory.readByte_writeAll_other s.mem h, hs⟩

/-! ## Series of reads -/

/-- A series of `PopS` answers exactly where every word it takes is readable memory, and then it takes them in order and
moves the supervisor stack pointer alone. -/
theorem State.popAllS_eq_next {n : Nat} {l : List Word} {s t : State} :
    s.popAllS n = .next (l, t) ↔
      l.length = n ∧ (∀ k (h : k < l.length), Readable s (s.ssp + BitVec.ofNat 32 k) l[k]) ∧
        t = s.setSsp (s.ssp + BitVec.ofNat 32 n) := by
  induction n generalizing s l with
  | zero =>
    have e : s.setSsp (s.ssp + BitVec.ofNat 32 0) = s := by simp [State.setSsp, State.ssp]
    simp only [State.popAllS, Host.Outcome.next.injEq, Prod.mk.injEq, e]
    constructor
    · rintro ⟨rfl, rfl⟩; simp
    · rintro ⟨h, -, rfl⟩; exact ⟨(List.length_eq_zero_iff.1 h).symm, rfl⟩
  | succ n ih =>
    rw [State.popAllS_succ_eq_next]
    simp only [State.popS_eq_next]
    constructor
    · rintro ⟨v, rest, u, ⟨h1, rfl⟩, h2, rfl⟩
      obtain ⟨hl, hr, rfl⟩ := ih.1 h2
      refine ⟨by simp [hl], fun k hk => ?_, ?_⟩
      · cases k with
        | zero => simpa using h1
        | succ k =>
          have := hr k (by simpa using hk)
          rw [State.setSsp_ssp, add_one_add] at this
          exact this
      · rw [State.setSsp_ssp, add_one_add]
        simp [State.setSsp]
    · rintro ⟨hl, hr, rfl⟩
      cases l with
      | nil => simp at hl
      | cons v rest =>
        refine ⟨v, rest, _, ⟨by have := hr 0 (by simp); simp only [BitVec.add_zero, List.getElem_cons_zero] at this; exact this, rfl⟩, ih.2 ⟨by simpa using hl, fun k hk => ?_, ?_⟩, rfl⟩
        · rw [State.setSsp_ssp, add_one_add]
          exact hr (k + 1) (by simpa using hk)
        · rw [State.setSsp_ssp, add_one_add]
          simp [State.setSsp]

/-! ## Series of register writes -/

/-- Registers outside `i, i - 1, …, i + 1 - length` keep their values. -/
theorem State.readReg_writeRegsDown_other {l : List Word} (s : State) {i k : Reg} (hi : l.length ≤ i.val + 1)
    (h : i < k ∨ k.val + l.length ≤ i.val) : (s.writeRegsDown i l).readReg k = s.readReg k := by
  induction l generalizing s i with
  | nil => rfl
  | cons v rest ih =>
    have hki : k ≠ i := by rintro rfl; simp at h
    rw [State.writeRegsDown]
    cases rest with
    | nil => exact State.readReg_writeReg_other s v hki
    | cons w rest =>
      have hp : (i - 1).val = i.val - 1 := by
        simp only [List.length_cons] at hi
        rw [Fin.sub_def]; simp only [Fin.val_one]; have := i.isLt; omega
      rw [ih]
      · exact State.readReg_writeReg_other s v hki
      · simp only [List.length_cons] at hi ⊢; omega
      · simp only [List.length_cons, Fin.lt_def] at hi h ⊢; omega

/-- The `j`-th word goes to register `i - j`. -/
theorem State.readReg_writeRegsDown_same {l : List Word} (s : State) {i k : Reg} (hi : l.length ≤ i.val + 1) {j : Nat}
    (hj : j < l.length) (hk : k.val + j = i.val) : (s.writeRegsDown i l).readReg k = l[j] := by
  induction l generalizing s i j with
  | nil => simp at hj
  | cons v rest ih =>
    rw [State.writeRegsDown]
    cases j with
    | zero =>
      obtain rfl : k = i := Fin.ext (by simpa using hk)
      cases rest with
      | nil => simp [State.writeRegsDown]
      | cons w rest =>
        have hp : (k - 1).val = k.val - 1 := by
          simp only [List.length_cons] at hi
          rw [Fin.sub_def]; simp only [Fin.val_one]; have := k.isLt; omega
        rw [State.readReg_writeRegsDown_other _ (by simp only [List.length_cons] at hi ⊢; omega)
          (.inl (by simp only [List.length_cons, Fin.lt_def] at hi ⊢; omega))]
        simp
    | succ j =>
      have hp : (i - 1).val = i.val - 1 := by
        simp only [List.length_cons] at hi hj
        rw [Fin.sub_def]; simp only [Fin.val_one]; have := i.isLt; omega
      have := ih (s.writeReg i v) (i := i - 1) (j := j) (by simp only [List.length_cons] at hi; omega)
        (by simpa using hj) (by omega)
      simpa using this

/-- A series of register writes that stays below `pc` changes the current mode's bank alone. -/
theorem State.writeRegsDown_bank {l : List Word} (s : State) {i : Reg} (h31 : i.val < 31) (hi : l.length ≤ i.val + 1) :
    (s.mode = .user → ∃ b, s.writeRegsDown i l = { s with xu := b }) ∧
    (s.mode = .supervisor → ∃ b, s.writeRegsDown i l = { s with xs := b }) := by
  induction l generalizing s i with
  | nil => exact ⟨fun _ => ⟨s.xu, rfl⟩, fun _ => ⟨s.xs, rfl⟩⟩
  | cons v rest ih =>
    have hne : i ≠ pcReg := fun e => by simp [e, pcReg] at h31
    have hw : (s.mode = .user → ∃ b, s.writeReg i v = { s with xu := b }) ∧
        (s.mode = .supervisor → ∃ b, s.writeReg i v = { s with xs := b }) := by
      refine ⟨fun hm => ⟨s.xu.setIfInBounds i.val v, ?_⟩, fun hm => ⟨s.xs.setIfInBounds i.val v, ?_⟩⟩ <;>
        simp only [State.writeReg, if_neg hne, hm]
    cases rest with
    | nil => exact hw
    | cons w rest =>
      have hp : (i - 1).val = i.val - 1 := by
        simp only [List.length_cons] at hi
        rw [Fin.sub_def]; simp only [Fin.val_one]; have := i.isLt; omega
      have := ih (s.writeReg i v) (i := i - 1) (by omega) (by simp only [List.length_cons] at hi ⊢; omega)
      rw [State.writeReg_mode] at this
      refine ⟨fun hm => ?_, fun hm => ?_⟩
      · obtain ⟨b, hb⟩ := hw.1 hm
        obtain ⟨c, hc⟩ := this.1 hm
        exact ⟨c, by rw [State.writeRegsDown, hc, hb]⟩
      · obtain ⟨b, hb⟩ := hw.2 hm
        obtain ⟨c, hc⟩ := this.2 hm
        exact ⟨c, by rw [State.writeRegsDown, hc, hb]⟩

/-- A series of writes to the user bank changes that bank alone: the `j`-th word goes to register `i - j`, and the
registers outside the series keep their values. -/
theorem State.writeUserDown_spec {l : List Word} (s : State) {i : Nat} (h31 : i < 31) (hi : l.length ≤ i + 1) :
    ∃ b : Vector Word 31, s.writeUserDown i l = { s with xu := b } ∧
      (∀ j (hj : j < l.length), b[i - j] = l[j]) ∧
      ∀ k (hk : k < 31), (i < k ∨ k + l.length ≤ i) → b[k] = s.xu[k] := by
  induction l generalizing s i with
  | nil => exact ⟨s.xu, rfl, by simp, fun _ _ _ => rfl⟩
  | cons v rest ih =>
    cases rest with
    | nil =>
      refine ⟨s.xu.setIfInBounds i v, rfl, ?_, fun k hk h => ?_⟩
      · intro j hj
        obtain rfl : j = 0 := by simpa using hj
        simp
      · simp only [List.length_cons, List.length_nil] at h
        rw [Vector.getElem_setIfInBounds]; split <;> [omega; rfl]
    | cons w rest =>
      simp only [List.length_cons] at hi
      obtain ⟨b, hb, h1, h2⟩ := ih { s with xu := s.xu.setIfInBounds i v } (i := i - 1) (by omega)
        (by simp only [List.length_cons]; omega)
      refine ⟨b, by rw [State.writeUserDown, hb], fun j hj => ?_, fun k hk h => ?_⟩
      · cases j with
        | zero =>
          rw [h2 (i - 0) (by omega) (.inl (by omega))]
          simp
        | succ j =>
          have := h1 j (by simpa using hj)
          simp only [List.getElem_cons_succ, ← this]
          congr 1; omega
      · simp only [List.length_cons] at h h2
        rw [h2 k hk (by omega)]
        rw [Vector.getElem_setIfInBounds]; split <;> [omega; rfl]

end Sys2Proof.Machine
end

