-- ==== Sys2Proof/Tests/Slice0.lean ====
section
/-! SUPPORT. Tests of the model against words and values that come from the spec, and for each statement with hypotheses
a state that meets them. The expected values of the step tests are those of spec/95_test_vectors.md section 3. -/

namespace Sys2Proof.Tests

open Sys2Proof.Machine

/-! ## Well-formedness: each check refuses a term outside its range -/

theorem test_wellFormed_src :
    Instr.wellFormed (.add 0 (.lit 32767) 0) = true ∧ Instr.wellFormed (.add 0 (.lit (-32768)) 0) = true ∧
      Instr.wellFormed (.add 0 (.lit 32768) 0) = false ∧ Instr.wellFormed (.add 0 (.lit (-32769)) 0) = false := by decide

theorem test_wellFormed_count :
    Instr.wellFormed (.ror 0 (.lit 31)) = true ∧ Instr.wellFormed (.ror 0 (.lit 32)) = false := by decide

theorem test_wellFormed_target :
    Instr.wellFormed (.call (.rel 2097151)) = true ∧ Instr.wellFormed (.call (.rel (-2097152))) = true ∧
      Instr.wellFormed (.call (.rel 2097152)) = false ∧ Instr.wellFormed (.call (.rel (-2097153))) = false := by decide

theorem test_wellFormed_int :
    Instr.wellFormed (.int 255) = true ∧ Instr.wellFormed (.int 256) = false := by decide

/-! ## Decoding: words put together by hand from the fields of spec/30_encoding.md -/

/-- Every listed word decodes to its instruction, which encodes to that word. -/
def Decodes (l : List (Word × Instr)) : Bool :=
  l.all fun p => decide (decodeTableWord 32 p.1.toNat = some p.2) && decide (encode p.2 = p.1)

/-- Every instruction of the format, its word put together from the fields of R72, R84. -/
theorem test_decode_int3 : Decodes [
      (0x844000BF, .and 17 (.reg 5) 31), (0x8CBF831E, .or 18 (.lit (-1000)) 30), (0x94C0013D, .xor 19 (.reg 9) 29),
      (0x9D21771C, .add 20 (.lit 3000) 28), (0xA54001BB, .sub 21 (.reg 13) 27),
      (0xADBD8F1A, .addc 22 (.lit (-5000)) 26), (0xB5C00239, .subc 23 (.reg 17) 25),
      (0xBE236B18, .mullo 24 (.lit 7000) 24), (0xC64002B7, .mulhi 25 (.reg 21) 23),
      (0xCEBB9B16, .mulslo 26 (.lit (-9000)) 22), (0xD6C00335, .mulshi 27 (.reg 25) 21),
      (0xDF255F14, .div 28 (.lit 11000) 20), (0xE74003B3, .divs 29 (.reg 29) 19),
      (0xEFB9A712, .mod 30 (.lit (-13000)) 18), (0xF7C00031, .mods 31 (.reg 1) 17)] = true := by decide

/-- Every instruction of the format, its word put together from the fields of R74, R85. -/
theorem test_decode_int2 : Decodes [
      (0x42610000, .ld 19 2), (0x46828000, .st 20 5), (0x4AA40000, .cp 21 8), (0x4EC58000, .cmp 22 11),
      (0x52E70000, .bit 23 14), (0x57188000, .asl 24 (.lit 17)), (0x5B2A0000, .asr 25 (.reg 20)),
      (0x5F5B8000, .shl 26 (.lit 23)), (0x636D0000, .shr 27 (.reg 26)), (0x679E8000, .rol 28 (.lit 29)),
      (0x6BA00000, .ror 29 (.reg 0))] = true := by decide

/-- Every instruction of the format, its word put together from the fields of R76, R86. -/
theorem test_decode_int1 : Decodes [
      (0x20000003, .push 3), (0x20800008, .pop 8), (0x2100000D, .nor 13), (0x21800012, .neg 18),
      (0x22000017, .clr 23), (0x2280001C, .set 28), (0x23000001, .inc 1), (0x23800006, .dec 6),
      (0x2479E580, .beq (.rel (-400000))), (0x24800010, .bne (.reg 16)), (0x2547A120, .bgt (.rel 500000)),
      (0x2580001A, .blt (.reg 26)), (0x2676D840, .bge (.rel (-600000))), (0x26800004, .bpl (.reg 4)),
      (0x274AAE60, .bmi (.rel 700000)), (0x2780000E, .bvc (.reg 14)), (0x2873CB00, .bvs (.rel (-800000))),
      (0x28800018, .bcc (.reg 24)), (0x294DBBA0, .bcs (.rel 900000)), (0x29800002, .bfeq (.reg 2)),
      (0x2A70BDC0, .bfne (.rel (-1000000))), (0x2A80000C, .bfgt (.reg 12)), (0x2B50C8E0, .bflt (.rel 1100000)),
      (0x2B800016, .bfge (.reg 22)), (0x2C6DB080, .bfpl (.rel (-1200000))), (0x2C800000, .bfmi (.reg 0)),
      (0x2D53D620, .bfinf (.rel 1300000)), (0x2D80000A, .bfninf (.reg 10)), (0x2E6AA340, .bfnnf (.rel (-1400000))),
      (0x2E800014, .bfnnnf (.reg 20)), (0x2F56E360, .bfnan (.rel 1500000)), (0x2F80001E, .bfnnan (.reg 30)),
      (0x30679600, .bfdn (.rel (-1600000))), (0x30800008, .bfndn (.reg 8)), (0x3159F0A0, .jmp (.rel 1700000)),
      (0x31800012, .call (.reg 18))] = true := by decide

/-- Every instruction of the format, its word put together from the fields of R78, R87. -/
theorem test_decode_fp3 : Decodes [
      (0x1892F000, .fadd 9 2 15), (0x19A3E000, .fsub 10 3 14), (0x1AB4D000, .fmul 11 4 13),
      (0x1BC5C000, .fdiv 12 5 12), (0x1CD6B000, .fatan 13 6 11)] = true := by decide

/-- Every instruction of the format, its word put together from the fields of R79, R88. -/
theorem test_decode_fp2 : Decodes [
      (0x1428F000, .fld 20 15), (0x146AE000, .fst 21 14), (0x148AD000, .fcp 5 13), (0x14EEC000, .fitof 23 12),
      (0x150F9000, .fftoi 7 25), (0x1550A000, .fsqrt 8 10), (0x15929000, .fsin 9 9), (0x15D48000, .fcos 10 8),
      (0x16167000, .flog 11 7), (0x16586000, .fexp 12 6), (0x169A5000, .fcmp 13 5)] = true := by decide

/-- Every instruction of the format, its word put together from the fields of R80, R89. -/
theorem test_decode_fp1 : Decodes [
      (0x123C0000, .fclr 15), (0x12740000, .fpush 13), (0x12AC0000, .fpop 11), (0x12E40000, .fneg 9),
      (0x131C0000, .fabs 7), (0x13540000, .fpi 5), (0x138C0000, .fe 3)] = true := by decide

/-- Every instruction of the format, its word put together from the fields of R82, R90. -/
theorem test_decode_zero : Decodes [
      (0x00000000, .nop), (0x00800000, .pushs), (0x01000000, .pops), (0x01800000, .clrz), (0x02000000, .clrn),
      (0x02800000, .clrc), (0x03000000, .clrv), (0x03800000, .setz), (0x04000000, .setn), (0x04800000, .setc),
      (0x05000000, .setv), (0x05800000, .jsr), (0x06000000, .rts), (0x06800000, .ret), (0x07000000, .rti),
      (0x07D28000, .int 165), (0x08000000, .stop), (0x08800000, .pushu), (0x09000000, .popu), (0x09800000, .user)] = true := by decide

/-- Every instruction of the format, its word put together from the fields of R81, R240. -/
theorem test_decode_simd : Decodes [
      (0x11000000, .simdNop)] = true := by decide

/-- The words of 95_test_vectors.md section 2 with every field in use. -/
theorem test_decode_vectors : Decodes [
      (0xF540013E, .mods 21 (.reg 9) 30), (0xA7FFFFCF, .sub 31 (.lit (-2)) 15), (0x986FFFE2, .add 1 (.lit 32767) 2),
      (0x98700002, .add 1 (.lit (-32768)) 2), (0x6A638000, .ror 19 (.reg 7)), (0x567F8000, .asl 19 (.lit 31)),
      (0x3180001C, .call (.reg 28)), (0x30E00000, .bfndn (.rel (-2097152))), (0x315FFFFF, .jmp (.rel 2097151)),
      (0x1C9AF000, .fatan 9 10 15), (0x1686C000, .fcmp 3 12), (0x143C1000, .fld 30 1), (0x15059000, .fftoi 2 25),
      (0x13AC0000, .fe 11), (0x07D28000, .int 165), (0x09800000, .user), (0x11000000, .simdNop)] = true := by decide

/-- Words of 95_test_vectors.md section 2 that differ in ignored bits only (R91). -/
theorem test_decode_ignored_bits :
    decode 0x9C5FFE53 = decode 0x9C400253 ∧ decode 0x4A297FFF = decode 0x4A290000 ∧
      decode 0x233FFFE1 = decode 0x23000001 ∧ decode 0x18123FFF = decode 0x18123000 ∧
      decode 0x15422FFF = decode 0x15422000 ∧ decode 0x12C7FFFF = decode 0x12C40000 ∧
      decode 0x067FFFFF = decode 0x06000000 ∧ decode 0x0782FFFF = decode 0x07828000 ∧
      decode 0x14A32000 = decode 0x14822000 := by decide

/-- The reserved words of 95_test_vectors.md section 2 (R92). -/
theorem test_decode_reserved :
    ([0xF8000000, 0x6C000000, 0x7C000000, 0x32000000, 0x3F800000, 0x1D000000, 0x1F000000, 0x16C00000, 0x17C00000,
      0x13C00000, 0x0A000000, 0x0F800000, 0x11000001, 0x117FFFFF, 0x11800000, 0x11FFFFFF, 0x10000000, 0x10FFFFFF] :
        List Word).all (fun w => decide (decode w = .error .reservedEncoding)) = true := by decide

/-- The words of 95_test_vectors.md section 2 with literal mode where none is provided (R93). -/
theorem test_decode_reserved_form :
    ([0x42318000, 0x4E300000, 0x20400000, 0x23C00005] : List Word).all
      (fun w => decide (decode w = .error .reservedOperandForm)) = true := by decide

/-! ## One step of each instruction -/

/-- What a test says of a state: the values it lists, and nothing of the rest. -/
structure Snap where
  mode : Mode := .user
  xu : List (Nat × Word) := []
  xs : List (Nat × Word) := []
  f : List (Nat × Word64) := []
  mem : List (Word × Word) := []
  stu : Word := 0
  sts : Word := 0
  pc : Word := 0x100
  ibuf : List (BitVec 8) := []
  stopped : Bool := false

/-- A state with the listed values; every other register is 0 and every other memory word unwritten. -/
def Snap.state (b : Snap) : State :=
  { State.resetAt b.pc with
    mode := b.mode
    xu := b.xu.foldl (fun v p => v.setIfInBounds p.1 p.2) (Vector.replicate 31 0)
    xs := b.xs.foldl (fun v p => v.setIfInBounds p.1 p.2) (Vector.replicate 31 0)
    f := b.f.foldl (fun v p => v.setIfInBounds p.1 p.2) (Vector.replicate 16 0)
    mem := b.mem.foldl (fun m p => m.writeWord p.1 p.2) []
    stu := flagsOfWord b.stu
    sts := flagsOfWord b.sts
    ibuf := b.ibuf
    stopped := b.stopped }

/-- The state has the listed values, and exactly the listed mode, flags, `pc`, buffer and wait bit. -/
def Snap.sees (a : Snap) (t : State) : Bool :=
  decide (t.mode = a.mode) && a.xu.all (fun p => t.xu[p.1]? == some p.2) && a.xs.all (fun p => t.xs[p.1]? == some p.2) &&
  a.f.all (fun p => t.f[p.1]? == some p.2) && a.mem.all (fun p => t.mem.readWord p.1 == some p.2) &&
  decide (t.stu = flagsOfWord a.stu) && decide (t.sts = flagsOfWord a.sts) && decide (t.pc = a.pc) &&
  decide (t.ibuf = a.ibuf) && decide (t.stopped = a.stopped)

/-- One step from `b`, with the word `w` at its `pc`, ends in what `a` lists. -/
def runs (b : Snap) (w : Word) (a : Snap) : Bool :=
  match step { b.state with mem := b.state.mem.writeWord b.pc w } with
  | .next t => a.sees t
  | _ => false

/-- A branch at 0x100 with these user flags goes to `target`. -/
def goesTo (w fl target : Word) : Bool := runs { stu := fl } w { stu := fl, pc := target }

/-- One step from `b`, with the word `w` at its `pc`, is refused under this name. -/
def refuses (b : Snap) (w : Word) (r : Refusal) : Bool :=
  match step { b.state with mem := b.state.mem.writeWord b.pc w } with
  | .refused e => decide (e = r)
  | _ => false

theorem test_and :
    runs { xu := [(17, 0x80000001)] }
      0x847FFFF3 { xu := [(19, 0x80000001)], stu := 0x2, pc := 0x101 } = true := by decide

theorem test_or :
    runs { xu := [(17, 0x80000000)] }
      0x8C6FFFF1 { xu := [(17, 0x80007fff)], stu := 0x2, pc := 0x101 } = true := by decide

theorem test_xor :
    runs { xu := [(17, 0xdeadbeef)] } 0x94400231 { xu := [(17, 0)], stu := 0x1, pc := 0x101 } = true := by decide

theorem test_add :
    runs { xu := [(17, 0x80000000), (18, 0x80000000)] }
      0x9C400253 { xu := [(19, 0)], stu := 0xd, pc := 0x101 } = true := by decide

theorem test_add_to_pc :
    runs { } 0x9FE0005F { pc := 0x103 } = true := by decide

theorem test_sub :
    runs { xu := [(17, 0), (18, 0x80000000)] }
      0xA4400253 { xu := [(19, 0x80000000)], stu := 0x6, pc := 0x101 } = true := by decide

theorem test_addc :
    runs { xu := [(17, 0x7fffffff), (18, 0)], stu := 0x8 }
      0xAC400253 { xu := [(19, 0x80000000)], stu := 0x6, pc := 0x101 } = true := by decide

theorem test_subc :
    runs { xu := [(17, 5), (18, 3)] } 0xB4400253 { xu := [(19, 1)], stu := 0x8, pc := 0x101 } = true := by decide

theorem test_mullo :
    runs { xu := [(17, 0x12345678), (18, 0x9abcdef0)] }
      0xBC400253 { xu := [(19, 0x242d2080)], pc := 0x101 } = true := by decide

theorem test_mulhi :
    runs { xu := [(17, 0x12345678), (18, 0x9abcdef0)] }
      0xC4400253 { xu := [(19, 0xb00ea4e)], pc := 0x101 } = true := by decide

theorem test_mulslo :
    runs { xu := [(17, 0x12345678), (18, 0x9abcdef0)] }
      0xCC400253 { xu := [(19, 0x242d2080)], pc := 0x101 } = true := by decide

theorem test_mulshi :
    runs { xu := [(17, 0x12345678), (18, 0x9abcdef0)] }
      0xD4400253 { xu := [(19, 0xf8cc93d6)], stu := 0x2, pc := 0x101 } = true := by decide

theorem test_div :
    runs { xu := [(17, 7), (18, 0)] } 0xDC400253 { xu := [(19, 0)], stu := 0x5, pc := 0x101 } = true := by decide

theorem test_div_unsigned :
    runs { xu := [(17, 0xffffffff), (18, 2)] }
      0xDC400253 { xu := [(19, 0x7fffffff)], pc := 0x101 } = true := by decide

theorem test_divs :
    runs { xu := [(17, 0xfffffff9), (18, 2)] }
      0xE4400253 { xu := [(19, 0xfffffffd)], stu := 0x2, pc := 0x101 } = true := by decide

theorem test_divs_overflow :
    runs { xu := [(17, 0x80000000), (18, 0xffffffff)] }
      0xE4400253 { xu := [(19, 0x80000000)], stu := 0x6, pc := 0x101 } = true := by decide

theorem test_mod :
    runs { xu := [(17, 7), (18, 0xfffffffe)] } 0xEC400253 { xu := [(19, 7)], pc := 0x101 } = true := by decide

theorem test_mods :
    runs { xu := [(17, 0xfffffff9), (18, 2)] }
      0xF4400253 { xu := [(19, 0xffffffff)], stu := 0x2, pc := 0x101 } = true := by decide

theorem test_mods_by_zero :
    runs { xu := [(17, 7), (18, 0)] } 0xF4400253 { xu := [(19, 0)], stu := 0x5, pc := 0x101 } = true := by decide

theorem test_ld :
    runs { xu := [(0, 0x1000)], mem := [(0x1000, 0x2000)] }
      0x40000000 { xu := [(0, 0x2000)], pc := 0x101 } = true := by decide

theorem test_ld_top :
    runs { xu := [(0, 0xffffffff)], mem := [(0xffffffff, 0)] }
      0x42200000 { xu := [(17, 0)], stu := 0x1, pc := 0x101 } = true := by decide

theorem test_st_pc :
    runs { xu := [(0, 0x1000)] } 0x47E00000 { mem := [(0x1000, 0x101)], pc := 0x101 } = true := by decide

theorem test_cp_to_pc :
    runs { xu := [(17, 0x400)] } 0x4A2F8000 { pc := 0x400 } = true := by decide

theorem test_cp :
    runs { xu := [(17, 0xdeadbeef)], stu := 0x1 }
      0x4A290000 { xu := [(18, 0xdeadbeef)], stu := 0x1, pc := 0x101 } = true := by decide

theorem test_cmp :
    runs { xu := [(17, 0x80000000), (18, 1)], stu := 0xc } 0x4E290000 { stu := 0xe, pc := 0x101 } = true := by decide

theorem test_bit :
    runs { xu := [(17, 0x80000000)] } 0x52288000 { stu := 0x2, pc := 0x101 } = true := by decide

theorem test_asl :
    runs { xu := [(17, 0x12345678)] }
      0x56320000 { xu := [(17, 0x23456780)], stu := 0xc, pc := 0x101 } = true := by decide

theorem test_asl_by_zero :
    runs { xu := [(17, 0x12345678)], stu := 0xc } 0x56300000 { pc := 0x101 } = true := by decide

theorem test_asr :
    runs { xu := [(17, 0x80000001)] }
      0x5A308000 { xu := [(17, 0xc0000000)], stu := 0xe, pc := 0x101 } = true := by decide

theorem test_asr_31 :
    runs { xu := [(17, 0x7fffffff)] } 0x5A3F8000 { xu := [(17, 0)], stu := 0xd, pc := 0x101 } = true := by decide

theorem test_shl :
    runs { xu := [(17, 0x80000001)] } 0x5E308000 { xu := [(17, 2)], stu := 0xc, pc := 0x101 } = true := by decide

theorem test_shl_by_itself :
    runs { xu := [(17, 3)] } 0x5E288000 { xu := [(17, 0x18)], pc := 0x101 } = true := by decide

theorem test_shr :
    runs { xu := [(17, 0x12345678)] }
      0x62320000 { xu := [(17, 0x1234567)], stu := 0xc, pc := 0x101 } = true := by decide

theorem test_rol :
    runs { xu := [(17, 0x12345678)] }
      0x66320000 { xu := [(17, 0x23456781)], stu := 0xc, pc := 0x101 } = true := by decide

theorem test_ror :
    runs { xu := [(17, 0x12345678)] }
      0x6A320000 { xu := [(17, 0x81234567)], stu := 0xe, pc := 0x101 } = true := by decide

theorem test_ror_by_register :
    runs { xu := [(17, 0x12345678), (18, 0x24)] }
      0x6A290000 { xu := [(17, 0x81234567)], stu := 0xe, pc := 0x101 } = true := by decide

theorem test_push_sp :
    runs { xu := [(30, 0x2000)] }
      0x2000001E { xu := [(30, 0x1fff)], mem := [(0x1fff, 0x2000)], pc := 0x101 } = true := by decide

theorem test_push_wraps :
    runs { xu := [(17, 9), (30, 0x2000)] }
      0x20000011 { xu := [(30, 0x1fff)], mem := [(0x1fff, 9)], pc := 0x101 } = true := by decide

theorem test_pop_sp :
    runs { xu := [(30, 0x1fff)], mem := [(0x1fff, 0x3000)] }
      0x2080001E { xu := [(30, 0x3000)], pc := 0x101 } = true := by decide

theorem test_pop :
    runs { xu := [(30, 0x1fff)], mem := [(0x1fff, 0x80000000)] }
      0x20800011 { xu := [(17, 0x80000000), (30, 0x2000)], stu := 0x2, pc := 0x101 } = true := by decide

theorem test_nor :
    runs { xu := [(1, 0xffff)] } 0x21000001 { xu := [(1, 0xffff0000)], stu := 0x2, pc := 0x101 } = true := by decide

theorem test_neg :
    runs { xu := [(1, 0x80000000)], stu := 0x8 } 0x21800001 { stu := 0xe, pc := 0x101 } = true := by decide

theorem test_clr :
    runs { stu := 0x2 } 0x22000001 { xu := [(1, 0)], stu := 0x2, pc := 0x101 } = true := by decide

theorem test_set :
    runs { stu := 0x1 } 0x22800001 { xu := [(1, 0xffffffff)], stu := 0x1, pc := 0x101 } = true := by decide

theorem test_inc :
    runs { xu := [(1, 0x7fffffff)], stu := 0x8 }
      0x23000001 { xu := [(1, 0x80000000)], stu := 0xe, pc := 0x101 } = true := by decide

theorem test_dec :
    runs { xu := [(1, 0x80000000)], stu := 0x8 }
      0x23800001 { xu := [(1, 0x7fffffff)], stu := 0xc, pc := 0x101 } = true := by decide

theorem test_jmp :
    runs { xu := [(15, 0x250)] } 0x3100000F { pc := 0x250 } = true := by decide

theorem test_call :
    runs { xu := [(16, 0x400), (17, 2), (18, 3), (19, 4), (20, 5), (21, 6), (22, 7), (23, 8)],
           xs := [(30, 0x8000)] }
      0x31800010 { xu := [(15, 0x101), (16, 0), (17, 0), (18, 0), (19, 0), (20, 0), (21, 0), (22, 0), (23, 0)],
                   xs := [(30, 0x7ff7)],
                   mem := [(0x7ff7, 0), (0x7ff8, 8), (0x7ff9, 7), (0x7ffa, 6), (0x7ffb, 5), (0x7ffc, 4),
                     (0x7ffd, 3), (0x7ffe, 2), (0x7fff, 0x400)],
                   pc := 0x400 } = true := by decide

theorem test_call_supervisor :
    runs { mode := .supervisor,
           xs := [(16, 1), (17, 2), (18, 3), (19, 4), (20, 5), (21, 6), (22, 7), (23, 8), (30, 0x8000)],
           sts := 0x3ff }
      0x31C00004 { mode := .supervisor,
                   xs := [(15, 0x101), (16, 0), (17, 0), (18, 0), (19, 0), (20, 0), (21, 0), (22, 0), (23, 0),
                     (30, 0x7ff7)],
                   mem := [(0x7ff7, 0x7ff), (0x7ff8, 8), (0x7ff9, 7), (0x7ffa, 6), (0x7ffb, 5), (0x7ffc, 4),
                     (0x7ffd, 3), (0x7ffe, 2), (0x7fff, 1)],
                   pc := 0x105 } = true := by decide

theorem test_fadd :
    runs { f := [(1, 0x3ff8000000000000), (2, 0xbff8000000000000)] }
      0x18123000 { f := [(3, 0)], stu := 0x10, pc := 0x101 } = true := by decide

theorem test_fsub :
    runs { f := [(1, 0x3ff0000000000000), (2, 0x4000000000000000)] }
      0x19123000 { f := [(3, 0xbff0000000000000)], stu := 0x20, pc := 0x101 } = true := by decide

theorem test_fmul_underflow :
    runs { f := [(1, 0x170000000000000), (2, 0x3c30000000000000)] }
      0x1A123000 { f := [(3, 0x4000)], stu := 0x200, pc := 0x101 } = true := by decide

theorem test_fmul_overflow :
    runs { f := [(1, 0x6974e718d7d7625a), (2, 0xe974e718d7d7625a)] }
      0x1A123000 { f := [(3, 0xfff0000000000000)], stu := 0xa0, pc := 0x101 } = true := by decide

theorem test_fdiv :
    runs { f := [(1, 0xbff0000000000000), (2, 0)] }
      0x1B123000 { f := [(3, 0xfff0000000000000)], stu := 0xa0, pc := 0x101 } = true := by decide

theorem test_fld :
    runs { xu := [(0, 0x1000)], mem := [(0x1000, 0x80000000), (0x1001, 1)] }
      0x14001000 { f := [(1, 0x8000000000000001)], stu := 0x220, pc := 0x101 } = true := by decide

theorem test_fst_wraps :
    runs { xu := [(0, 0xffffffff)], f := [(1, 0x123456789abcdef)] }
      0x14401000 { mem := [(0, 0x89abcdef), (0xffffffff, 0x1234567)], pc := 0x101 } = true := by decide

theorem test_fcp :
    runs { f := [(1, 0x8000000000000000)] } 0x14821000 { stu := 0x10, pc := 0x101 } = true := by decide

theorem test_fitof :
    runs { xu := [(17, 0x80000000)], stu := 0x40 }
      0x14E22000 { f := [(2, 0xc1e0000000000000)], stu := 0x60, pc := 0x101 } = true := by decide

theorem test_fftoi :
    runs { f := [(1, 0xc004000000000000)], stu := 0x8 }
      0x15032000 { xu := [(18, 0xfffffffe)], stu := 0xa, pc := 0x101 } = true := by decide

theorem test_fftoi_max :
    runs { f := [(1, 0x41dfffffffc00000)], stu := 0x8 }
      0x15032000 { xu := [(18, 0x7fffffff)], stu := 0x8, pc := 0x101 } = true := by decide

theorem test_fsqrt :
    runs { f := [(1, 0x4000000000000000)] }
      0x15422000 { f := [(2, 0x3ff6a09e667f3bcd)], pc := 0x101 } = true := by decide

theorem test_fcmp :
    runs { f := [(1, 0x3ff0000000000000), (2, 0x4000000000000000)], stu := 0x200 }
      0x16822000 { stu := 0x220, pc := 0x101 } = true := by decide

theorem test_fcmp_zeros :
    runs { f := [(1, 0), (2, 0x8000000000000000)], stu := 0x200 }
      0x16822000 { stu := 0x210, pc := 0x101 } = true := by decide

theorem test_fpush :
    runs { xu := [(30, 0x2000)], f := [(1, 0x3ff8000000000000)] }
      0x12440000 { xu := [(30, 0x1ffe)], mem := [(0x1ffe, 0x3ff80000), (0x1fff, 0)], pc := 0x101 } = true := by decide

theorem test_fpop :
    runs { xu := [(30, 0x1ffe)], mem := [(0x1ffe, 0xbff00000), (0x1fff, 0)] }
      0x12840000 { xu := [(30, 0x2000)], f := [(1, 0xbff0000000000000)], stu := 0x20, pc := 0x101 } = true := by decide

theorem test_fneg :
    runs { f := [(1, 0x7ff0000000000000)] }
      0x12C40000 { f := [(1, 0xfff0000000000000)], stu := 0xa0, pc := 0x101 } = true := by decide

theorem test_fabs :
    runs { f := [(1, 0xfff0000000000000)] }
      0x13040000 { f := [(1, 0x7ff0000000000000)], stu := 0x40, pc := 0x101 } = true := by decide

theorem test_fclr :
    runs { stu := 0x120 } 0x12040000 { f := [(1, 0)], stu := 0x130, pc := 0x101 } = true := by decide

theorem test_fpi :
    runs { } 0x13440000 { f := [(1, 0x400921fb54442d18)], pc := 0x101 } = true := by decide

theorem test_fe :
    runs { } 0x13840000 { f := [(1, 0x4005bf0a8b145769)], pc := 0x101 } = true := by decide

theorem test_nop :
    runs { } 0x007FFFFF { pc := 0x101 } = true := by decide

theorem test_pushs :
    runs { mode := .supervisor, xs := [(30, 0x9000)], sts := 0x3ff }
      0x00800000 { mode := .supervisor, xs := [(30, 0x8fff)], mem := [(0x8fff, 0x7ff)], sts := 0x3ff,
                   pc := 0x101 } = true := by decide

theorem test_pops :
    runs { xu := [(30, 0x1fff)], mem := [(0x1fff, 0x406)], stu := 0x9 }
      0x01000000 { xu := [(30, 0x2000)], stu := 0x6, pc := 0x101 } = true := by decide

theorem test_clrz :
    runs { stu := 0x3ff } 0x01800000 { stu := 0x3fe, pc := 0x101 } = true := by decide

theorem test_clrn :
    runs { stu := 0x3ff } 0x02000000 { stu := 0x3fd, pc := 0x101 } = true := by decide

theorem test_clrc :
    runs { stu := 0x3ff } 0x02800000 { stu := 0x3f7, pc := 0x101 } = true := by decide

theorem test_clrv :
    runs { stu := 0x3ff } 0x03000000 { stu := 0x3fb, pc := 0x101 } = true := by decide

theorem test_setz :
    runs { } 0x03800000 { stu := 0x1, pc := 0x101 } = true := by decide

theorem test_setn :
    runs { } 0x04000000 { stu := 0x2, pc := 0x101 } = true := by decide

theorem test_setc :
    runs { } 0x04800000 { stu := 0x8, pc := 0x101 } = true := by decide

theorem test_setv :
    runs { } 0x05000000 { stu := 0x4, pc := 0x101 } = true := by decide

theorem test_jsr :
    runs { xu := [(15, 0x400)] } 0x05800000 { xu := [(15, 0x101)], pc := 0x400 } = true := by decide

theorem test_rts :
    runs { xu := [(15, 0x250)] } 0x06000000 { xu := [(15, 0x250)], pc := 0x250 } = true := by decide

theorem test_ret :
    runs { xu := [(15, 0x101), (16, 0), (17, 0), (18, 0), (19, 0), (20, 0), (21, 0), (22, 0), (23, 0)],
           xs := [(30, 0x7ff7)],
           mem := [(0x7ff7, 9), (0x7ff8, 8), (0x7ff9, 7), (0x7ffa, 6), (0x7ffb, 5), (0x7ffc, 4), (0x7ffd, 3),
             (0x7ffe, 2), (0x7fff, 1)],
           stu := 0x3f0 }
      0x06800000 { xu := [(16, 1), (17, 2), (18, 3), (19, 4), (20, 5), (21, 6), (22, 7), (23, 8)],
                   xs := [(30, 0x8000)], stu := 0x9, pc := 0x101 } = true := by decide

theorem test_rti :
    runs { mode := .supervisor, xs := [(15, 0x203)] } 0x07000000 { pc := 0x203 } = true := by decide

theorem test_rti_in_user_mode :
    runs { xu := [(15, 0x203)] } 0x07000000 { pc := 0x203 } = true := by decide

theorem test_int :
    runs { xu := [(0, 0xa), (1, 0xb), (2, 0xc), (3, 0xd), (4, 0xe), (5, 0xf), (6, 0x10), (7, 0x11)] }
      0x07828000 { xs := [(0, 0xa), (1, 0xb), (2, 0xc), (3, 0xd), (4, 0xe), (5, 0xf), (6, 0x10), (7, 0x11)],
                   pc := 0x101, ibuf := [5] } = true := by decide

theorem test_int_full :
    runs { mode := .supervisor, ibuf := List.replicate 256 0 }
      0x07838000 { mode := .supervisor, pc := 0x101, ibuf := List.replicate 256 0 } = true := by decide +kernel

theorem test_stop :
    runs { mode := .supervisor, ibuf := [3] }
      0x08000000 { mode := .supervisor, pc := 0x101, ibuf := [3], stopped := true } = true := by decide

theorem test_user :
    runs { mode := .supervisor, xs := [(15, 0x1000)] } 0x09800000 { pc := 0x1000 } = true := by decide

theorem test_popu :
    runs { mode := .supervisor, xs := [(30, 0x8fe0)],
           mem := (0x8fe0, 5) :: (List.range 31).map fun i => (0x8fff - BitVec.ofNat 32 i, 0x100 + BitVec.ofNat 32 i) }
      0x09000000 { mode := .supervisor, xu := [(0, 0x100), (1, 0x101), (30, 0x11e)], xs := [(30, 0x9000)],
                   stu := 0x5, pc := 0x101 } = true := by decide +kernel

theorem test_pushu :
    runs { mode := .supervisor, xu := [(0, 0x100), (1, 0x101), (30, 0x11e)], xs := [(30, 0x9000)], stu := 0x5 }
      0x08800000 { mode := .supervisor, xs := [(30, 0x8fe0)],
                   mem := [(0x8fe0, 5), (0x8fe1, 0x11e), (0x8ffe, 0x101), (0x8fff, 0x100)], stu := 0x5,
                   pc := 0x101 } = true := by decide

theorem test_beq :
    goesTo 0x24400003 0x1 0x104 = true ∧ goesTo 0x24400003 0x0 0x101 = true := by decide

theorem test_bne :
    goesTo 0x24C00003 0x0 0x104 = true ∧ goesTo 0x24C00003 0x1 0x101 = true := by decide

theorem test_bgt :
    goesTo 0x25400003 0x2 0x104 = true ∧ goesTo 0x25400003 0x3 0x101 = true ∧ goesTo 0x25400003 0x0 0x101 = true := by decide

theorem test_blt :
    goesTo 0x25C00003 0x0 0x104 = true ∧ goesTo 0x25C00003 0x1 0x101 = true ∧ goesTo 0x25C00003 0x2 0x101 = true := by decide

theorem test_bge :
    goesTo 0x26400003 0x1 0x104 = true ∧ goesTo 0x26400003 0x2 0x104 = true ∧ goesTo 0x26400003 0x0 0x101 = true := by decide

theorem test_bpl :
    goesTo 0x26C00003 0x0 0x104 = true ∧ goesTo 0x26C00003 0x2 0x101 = true := by decide

theorem test_bmi :
    goesTo 0x27400003 0x2 0x104 = true ∧ goesTo 0x27400003 0x0 0x101 = true := by decide

theorem test_bvc :
    goesTo 0x27C00003 0x0 0x104 = true ∧ goesTo 0x27C00003 0x4 0x101 = true := by decide

theorem test_bvs :
    goesTo 0x28400003 0x4 0x104 = true ∧ goesTo 0x28400003 0x0 0x101 = true := by decide

theorem test_bcc :
    goesTo 0x28C00003 0x0 0x104 = true ∧ goesTo 0x28C00003 0x8 0x101 = true := by decide

theorem test_bcs :
    goesTo 0x29400003 0x8 0x104 = true ∧ goesTo 0x29400003 0x0 0x101 = true := by decide

theorem test_bfeq :
    goesTo 0x29C00003 0x10 0x104 = true ∧ goesTo 0x29C00003 0x0 0x101 = true := by decide

theorem test_bfne :
    goesTo 0x2A400003 0x0 0x104 = true ∧ goesTo 0x2A400003 0x10 0x101 = true := by decide

theorem test_bfgt :
    goesTo 0x2AC00003 0x20 0x104 = true ∧ goesTo 0x2AC00003 0x30 0x101 = true ∧ goesTo 0x2AC00003 0x0 0x101 = true := by decide

theorem test_bflt :
    goesTo 0x2B400003 0x0 0x104 = true ∧ goesTo 0x2B400003 0x10 0x101 = true ∧ goesTo 0x2B400003 0x20 0x101 = true := by decide

theorem test_bfge :
    goesTo 0x2BC00003 0x10 0x104 = true ∧ goesTo 0x2BC00003 0x20 0x104 = true ∧ goesTo 0x2BC00003 0x0 0x101 = true := by decide

theorem test_bfpl :
    goesTo 0x2C400003 0x0 0x104 = true ∧ goesTo 0x2C400003 0x20 0x101 = true := by decide

theorem test_bfmi :
    goesTo 0x2CC00003 0x20 0x104 = true ∧ goesTo 0x2CC00003 0x0 0x101 = true := by decide

theorem test_bfinf :
    goesTo 0x2D400003 0x40 0x104 = true ∧ goesTo 0x2D400003 0x0 0x101 = true := by decide

theorem test_bfninf :
    goesTo 0x2DC00003 0x0 0x104 = true ∧ goesTo 0x2DC00003 0x40 0x101 = true := by decide

theorem test_bfnnf :
    goesTo 0x2E400003 0x80 0x104 = true ∧ goesTo 0x2E400003 0x0 0x101 = true := by decide

theorem test_bfnnnf :
    goesTo 0x2EC00003 0x0 0x104 = true ∧ goesTo 0x2EC00003 0x80 0x101 = true := by decide

theorem test_bfnan :
    goesTo 0x2F400003 0x100 0x104 = true ∧ goesTo 0x2F400003 0x0 0x101 = true := by decide

theorem test_bfnnan :
    goesTo 0x2FC00003 0x0 0x104 = true ∧ goesTo 0x2FC00003 0x100 0x101 = true := by decide

theorem test_bfdn :
    goesTo 0x30400003 0x200 0x104 = true ∧ goesTo 0x30400003 0x0 0x101 = true := by decide

theorem test_bfndn :
    goesTo 0x30C00003 0x0 0x104 = true ∧ goesTo 0x30C00003 0x200 0x101 = true := by decide

/-! ## Steps that are no single instruction's -/

theorem test_branch_literals :
    runs { } 0x24FFFFFE { pc := 0xFF } = true ∧ runs { stu := 1 } 0x245FFFFF { stu := 1, pc := 0x200100 } = true := by decide

theorem test_user_mode_refusals :
    refuses { } 0x09800000 .supervisorOnly = true ∧ refuses { } 0x08800000 .supervisorOnly = true ∧
      refuses { } 0x09000000 .supervisorOnly = true ∧ refuses { } 0x42318000 .reservedOperandForm = true ∧
      refuses { } 0x11800000 .reservedEncoding = true := by decide

/-- R285: delivery saves `pc` in the supervisor link register and writes no memory. -/
theorem test_delivery :
    (match step { Snap.state { ibuf := [5, 7], stopped := true } with vectors := [(5, 0xF05)] } with
      | .next t => Snap.sees { mode := .supervisor, xs := [(15, 0x100)], pc := 0xF05, ibuf := [7] } t && decide (t.mem = [])
      | _ => false) = true := by decide

/-- R300: in supervisor mode a stopped core with a request goes on with the request still buffered. -/
theorem test_wake_in_supervisor_mode :
    runs { mode := .supervisor, ibuf := [3], stopped := true } 0x00000000
      { mode := .supervisor, pc := 0x101, ibuf := [3] } = true := by decide

/-- R67: a store to the next word, and a fetch from a word just stored to. -/
theorem test_stores_near_fetches :
    refuses { xu := [(0, 0x102)] } 0x46200000 .storeIntoNextWords = true ∧
      (match step { Snap.state { mem := [(0x100, 0)] } with storesPrev := [0x100] } with
        | .refused .staleFetch => true
        | _ => false) = true := by decide

/-! ## The hypotheses of the statements can be met

One theorem for each statement with hypotheses, named after it: concrete states and operands at the ends of the ranges
its clauses cover. -/

/-- Whether an outcome is a next state. -/
def completes : Result State → Bool
  | .next _ => true
  | _ => false

/-- The next state of an outcome, if it has one. -/
def nextOf (r : Result State) (d : State) : State :=
  match r with
  | .next t => t
  | _ => d

theorem eq_next_of_completes {r : Result State} (d : State) (h : completes r = true) : r = .next (nextOf r d) := by
  cases r <;> simp_all [completes, nextOf]

theorem witness_StepRunsTheDecodedInstruction :
    (Executes (Snap.state { mem := [(0x100, 0x22000001)] }) ∧
      Fetches (Snap.state { mem := [(0x100, 0x22000001)] }) 0x22000001 ∧ decode 0x22000001 = .ok (.clr 1)) ∧
    (Executes (Snap.state { mode := .supervisor, pc := 0xFFFFFFFF, ibuf := [3], stopped := true, mem := [(0xFFFFFFFF, 0)] }) ∧
      Fetches (Snap.state { mode := .supervisor, pc := 0xFFFFFFFF, ibuf := [3], stopped := true, mem := [(0xFFFFFFFF, 0)] })
        0 ∧ decode 0 = .ok .nop) := by
  unfold Executes Fetches Readable; decide

theorem witness_StepWaitsOrDelivers :
    ((Snap.state { stopped := true }).stopped = true ∧ (Snap.state { stopped := true }).arriveBetween.ibuf = []) ∧
    ((Snap.state { ibuf := [255] }).mode = .user ∧ (Snap.state { ibuf := [255] }).arriveBetween.ibuf = 255 :: []) ∧
    ((Snap.state { ibuf := [0, 0] }).mode = .user ∧ (Snap.state { ibuf := [0, 0] }).arriveBetween.ibuf = 0 :: [0]) := by
  decide

theorem witness_RegisterFileFollowsModeAndPc :
    (31 : Reg) = 31 ∧ (0 : Reg).val < 31 ∧ (30 : Reg).val < 31 ∧ (Snap.state { }).mode = .user ∧
      (Snap.state { mode := .supervisor }).mode = .supervisor := by decide

theorem witness_OperandFormsHaveTheirValues : (0 : Nat) < 32 ∧ (31 : Nat) < 32 := by decide

/-- The hypothesis of `EncodesAs`, at the ends of every literal's range. -/
theorem witness_EncodesAs :
    Instr.wellFormed (.and 0 (.lit (-32768)) 31) = true ∧ Instr.wellFormed (.mods 0 (.lit 32767) 31) = true ∧
      Instr.wellFormed (.asl 0 (.lit 0)) = true ∧ Instr.wellFormed (.ror 31 (.lit 31)) = true ∧
      Instr.wellFormed (.beq (.rel (-2097152))) = true ∧ Instr.wellFormed (.call (.rel 2097151)) = true ∧
      Instr.wellFormed (.ld 0 31) = true ∧ Instr.wellFormed (.int 0) = true ∧ Instr.wellFormed (.int 255) = true := by decide

theorem witness_LoadWordReadsMemory :
    Readable (Snap.state { mem := [(0, 5)] }) ((Snap.state { mem := [(0, 5)] }).readReg 0) 5 ∧
      Readable (Snap.state { xu := [(1, 0xFFFFFFFF)], mem := [(0xFFFFFFFF, 0x80000000)] })
        ((Snap.state { xu := [(1, 0xFFFFFFFF)], mem := [(0xFFFFFFFF, 0x80000000)] }).readReg 1) 0x80000000 := by
  unfold Readable; decide

theorem witness_StoreWordWritesOneWord :
    Storable (Snap.state { }) ((Snap.state { }).readReg 0) ∧
      Storable (Snap.state { xu := [(0, 0x102)] }) ((Snap.state { xu := [(0, 0x102)] }).readReg 0) ∧
      Storable (Snap.state { xu := [(0, 0xFFFFFFFF)] }) ((Snap.state { xu := [(0, 0xFFFFFFFF)] }).readReg 0) := by
  unfold Storable; decide

theorem witness_PushAndPopMoveOneWord :
    Storable (Snap.state { }) ((Snap.state { }).readReg 30 - 1) ∧
      Storable (Snap.state { xu := [(30, 1)] }) ((Snap.state { xu := [(30, 1)] }).readReg 30 - 1) ∧
      Readable (Snap.state { xu := [(30, 0xFFFFFFFF)], mem := [(0xFFFFFFFF, 9)] })
        ((Snap.state { xu := [(30, 0xFFFFFFFF)], mem := [(0xFFFFFFFF, 9)] }).readReg 30) 9 ∧ (0 : Reg) ≠ 30 := by
  unfold Storable Readable; decide

/-- For each condition, flags on which it holds and flags on which it fails. -/
theorem witness_IntegerBranchesAndJumpGoToTheirTargets :
    ([(fun fl => fl.z, 1, 0), (fun fl => !fl.z, 0, 1), (fun fl => !fl.z && fl.n, 2, 3), (fun fl => !fl.z && !fl.n, 0, 2),
      (fun fl => fl.z || fl.n, 2, 0), (fun fl => !fl.n, 0, 2), (fun fl => fl.n, 2, 0), (fun fl => !fl.v, 0, 4),
      (fun fl => fl.v, 4, 0), (fun fl => !fl.c, 0, 8), (fun fl => fl.c, 8, 0)] : List ((Flags → Bool) × Word × Word)).all
        (fun p => p.1 (Snap.state { stu := p.2.1 }).flags && !p.1 (Snap.state { stu := p.2.2 }).flags) = true := by decide

theorem witness_FloatBranchesGoToTheirTargets :
    ([(fun fl => fl.fz, 16, 0), (fun fl => !fl.fz, 0, 16), (fun fl => !fl.fz && fl.fn, 32, 48),
      (fun fl => !fl.fz && !fl.fn, 0, 32), (fun fl => fl.fz || fl.fn, 32, 0), (fun fl => !fl.fn, 0, 32),
      (fun fl => fl.fn, 32, 0), (fun fl => fl.finf, 64, 0), (fun fl => !fl.finf, 0, 64), (fun fl => fl.fnnf, 128, 0),
      (fun fl => !fl.fnnf, 0, 128), (fun fl => fl.fnan, 256, 0), (fun fl => !fl.fnan, 0, 256), (fun fl => fl.fdn, 512, 0),
      (fun fl => !fl.fdn, 0, 512)] : List ((Flags → Bool) × Word × Word)).all
        (fun p => p.1 (Snap.state { stu := p.2.1 }).flags && !p.1 (Snap.state { stu := p.2.2 }).flags) = true := by decide

/-- Whether every store of a list is admitted. -/
def allStorable (s : State) (l : List (Word × Word)) : Bool :=
  l.all fun p => decide (kindAt s.memMap p.1 = some .memory) && decide (p.1 ≠ s.pc) && decide (p.1 ≠ s.pc + 1)

theorem storable_of_allStorable {s : State} {l : List (Word × Word)} (h : allStorable s l = true) :
    ∀ p ∈ l, Storable s p.1 := by
  intro p hp
  have := List.all_eq_true.1 h p hp
  simp only [Bool.and_eq_true, decide_eq_true_eq] at this
  exact ⟨this.1.1, this.1.2, this.2⟩

theorem witness_CallSavesAndClearsTheDataRegisters :
    (∀ p ∈ callFrame (Snap.state { xs := [(30, 4)] }), Storable (Snap.state { xs := [(30, 4)] }) p.1) ∧
      (∀ p ∈ callFrame (Snap.state { mode := .supervisor, xs := [(30, 0x100)] }),
        Storable (Snap.state { mode := .supervisor, xs := [(30, 0x100)] }) p.1) :=
  ⟨storable_of_allStorable (by decide +kernel), storable_of_allStorable (by decide +kernel)⟩

theorem witness_FloatLoadAndStoreMoveTwoWords :
    (Readable (Snap.state { xu := [(0, 0xFFFFFFFF)], mem := [(0, 1), (0xFFFFFFFF, 0x80000000)] })
        ((Snap.state { xu := [(0, 0xFFFFFFFF)], mem := [(0, 1), (0xFFFFFFFF, 0x80000000)] }).readReg 0) 0x80000000 ∧
      Readable (Snap.state { xu := [(0, 0xFFFFFFFF)], mem := [(0, 1), (0xFFFFFFFF, 0x80000000)] })
        ((Snap.state { xu := [(0, 0xFFFFFFFF)], mem := [(0, 1), (0xFFFFFFFF, 0x80000000)] }).readReg 0 + 1) 1) ∧
    (Storable (Snap.state { xu := [(0, 0xFE)] }) ((Snap.state { xu := [(0, 0xFE)] }).readReg 0) ∧
      Storable (Snap.state { xu := [(0, 0xFE)] }) ((Snap.state { xu := [(0, 0xFE)] }).readReg 0 + 1)) := by
  unfold Storable Readable; decide

theorem witness_FloatPushAndPopMoveTwoWords :
    (Storable (Snap.state { xu := [(30, 1)] }) ((Snap.state { xu := [(30, 1)] }).readReg 30 - 2) ∧
      Storable (Snap.state { xu := [(30, 1)] }) ((Snap.state { xu := [(30, 1)] }).readReg 30 - 1)) ∧
    (Readable (Snap.state { xu := [(30, 0xFFFFFFFF)], mem := [(0, 1), (0xFFFFFFFF, 2)] })
        ((Snap.state { xu := [(30, 0xFFFFFFFF)], mem := [(0, 1), (0xFFFFFFFF, 2)] }).readReg 30) 2 ∧
      Readable (Snap.state { xu := [(30, 0xFFFFFFFF)], mem := [(0, 1), (0xFFFFFFFF, 2)] })
        ((Snap.state { xu := [(30, 0xFFFFFFFF)], mem := [(0, 1), (0xFFFFFFFF, 2)] }).readReg 30 + 1) 1) := by
  unfold Storable Readable; decide

/-- In range: 2147483647.0 and -2147483648.0. Not in range: 2147483648.0, an infinity and a NaN. -/
theorem witness_ConversionsAreExactAndWriteTheirFlags :
    (FinitePattern 0x41DFFFFFFFC00000 ∧ -2 ^ 31 ≤ truncRat (fVal 0x41DFFFFFFFC00000) ∧
      truncRat (fVal 0x41DFFFFFFFC00000) ≤ 2 ^ 31 - 1) ∧
    (FinitePattern 0xC1E0000000000000 ∧ -2 ^ 31 ≤ truncRat (fVal 0xC1E0000000000000) ∧
      truncRat (fVal 0xC1E0000000000000) ≤ 2 ^ 31 - 1) ∧
    ¬ (FinitePattern 0x41E0000000000000 ∧ -2 ^ 31 ≤ truncRat (fVal 0x41E0000000000000) ∧
      truncRat (fVal 0x41E0000000000000) ≤ 2 ^ 31 - 1) ∧
    ¬ FinitePattern 0xFFF0000000000000 ∧ ¬ FinitePattern 0x7FF8000000000000 := by
  unfold FinitePattern; decide +kernel

theorem witness_StatusPushAndPopUseTheCurrentStack :
    Storable (Snap.state { }) ((Snap.state { }).readReg 30 - 1) ∧
      Readable (Snap.state { mode := .supervisor, xs := [(30, 0xFFFFFFFF)], mem := [(0xFFFFFFFF, 0x3FF)] })
        ((Snap.state { mode := .supervisor, xs := [(30, 0xFFFFFFFF)], mem := [(0xFFFFFFFF, 0x3FF)] }).readReg 30)
        0x3FF := by
  unfold Storable Readable; decide

/-- A call frame or a user context in memory from address `sp` on: word `k` of it is `k`. -/
def frameAt (sp : Word) (n : Nat) : List (Word × Word) :=
  (List.range n).map fun k => (sp + BitVec.ofNat 32 k, BitVec.ofNat 32 k)

theorem witness_RetPopsTheCallFrame :
    (Snap.state { xs := [(30, 0xFFFFFFFB)], mem := frameAt 0xFFFFFFFB 9 }).ssp = 0xFFFFFFFB ∧
      Readable (Snap.state { xs := [(30, 0xFFFFFFFB)], mem := frameAt 0xFFFFFFFB 9 }) 0xFFFFFFFB 0 ∧
      ∀ j < 8, Readable (Snap.state { xs := [(30, 0xFFFFFFFB)], mem := frameAt 0xFFFFFFFB 9 })
        (0xFFFFFFFB + BitVec.ofNat 32 (j + 1)) (BitVec.ofNat 32 (j + 1)) := by
  unfold Readable; decide +kernel

theorem witness_ReturnInstructionsEnterUserMode : (Snap.state { mode := .supervisor }).mode = .supervisor := by decide

theorem witness_IntCopiesArgumentsAndQueuesTheNumber :
    (0 : Nat) < 256 ∧ (255 : Nat) < 256 ∧ (Snap.state { }).mode = .user ∧ (Snap.state { }).ibuf = [] ∧
      (Snap.state { mode := .supervisor }).mode = .supervisor := by decide

theorem witness_StopWaitsForTheNextInterrupt :
    ((Snap.state { stopped := true }).stopped = true ∧ (Snap.state { stopped := true }).extIrq = [] ∧
      (Snap.state { stopped := true }).ibuf = []) ∧
    ((Snap.state { stopped := true, ibuf := [255] }).stopped = true ∧ (Snap.state { stopped := true, ibuf := [255] }).extIrq = [] ∧
      (Snap.state { stopped := true, ibuf := [255] }).mode = .user ∧
      (Snap.state { stopped := true, ibuf := [255] }).ibuf = 255 :: []) ∧
    ((Snap.state { mode := .supervisor, stopped := true, ibuf := [0] }).stopped = true ∧
      (Snap.state { mode := .supervisor, stopped := true, ibuf := [0] }).extIrq = [] ∧
      (Snap.state { mode := .supervisor, stopped := true, ibuf := [0] }).mode = .supervisor ∧
      (Snap.state { mode := .supervisor, stopped := true, ibuf := [0] }).ibuf ≠ []) := by decide

theorem witness_PushuSavesTheUserContext :
    (Snap.state { mode := .supervisor, xs := [(30, 5)] }).mode = .supervisor ∧
      ∀ p ∈ pushuFrame (Snap.state { mode := .supervisor, xs := [(30, 5)] }),
        Storable (Snap.state { mode := .supervisor, xs := [(30, 5)] }) p.1 :=
  ⟨by decide, storable_of_allStorable (by decide +kernel)⟩

theorem witness_PopuLoadsTheUserContext :
    (Snap.state { mode := .supervisor, xs := [(30, 0xFFFFFFF0)], mem := frameAt 0xFFFFFFF0 32 }).mode = .supervisor ∧
      Readable (Snap.state { mode := .supervisor, xs := [(30, 0xFFFFFFF0)], mem := frameAt 0xFFFFFFF0 32 })
        (Snap.state { mode := .supervisor, xs := [(30, 0xFFFFFFF0)], mem := frameAt 0xFFFFFFF0 32 }).ssp 0 ∧
      ∀ j < 31, Readable (Snap.state { mode := .supervisor, xs := [(30, 0xFFFFFFF0)], mem := frameAt 0xFFFFFFF0 32 })
        ((Snap.state { mode := .supervisor, xs := [(30, 0xFFFFFFF0)], mem := frameAt 0xFFFFFFF0 32 }).ssp +
          BitVec.ofNat 32 (j + 1)) (BitVec.ofNat 32 (j + 1)) := by
  unfold Readable; decide +kernel

theorem witness_SupervisorOnlyInstructionsRefusedInUserMode : (Snap.state { }).mode = .user := by decide

/-- A platform with memory at 0..15, a device at 16..31 and nothing above. -/
def smallPlatform : State := { Snap.state { } with memMap := [⟨0, 16, .memory⟩, ⟨16, 16, .device⟩] }

theorem witness_AccessOutsideWrittenMemoryStops :
    (kindAt smallPlatform.memMap 32 = none ∧ kindAt smallPlatform.memMap 0xFFFFFFFF = none) ∧
    (kindAt smallPlatform.memMap 16 = some .device ∧ kindAt smallPlatform.memMap 31 = some .device) ∧
    (kindAt smallPlatform.memMap 0 = some .memory ∧ smallPlatform.mem.readWord 0 = none ∧
      kindAt smallPlatform.memMap 15 = some .memory ∧ smallPlatform.mem.readWord 15 = none) := by decide

theorem witness_DecodingUndoesEncoding :
    (Instr.wellFormed (.sub 31 (.lit (-32768)) 0) = true ∧ Instr.wellFormed (.jmp (.rel 2097151)) = true ∧
      Instr.wellFormed (.shr 0 (.lit 31)) = true ∧ Instr.wellFormed (.int 255) = true) ∧
    decode 0x07D28000 = .ok (.int 165) := by decide

theorem witness_ReservedWordsAreExactlyThoseListed :
    (Executes (Snap.state { mem := [(0x100, 0x117FFFFF)] }) ∧
      Fetches (Snap.state { mem := [(0x100, 0x117FFFFF)] }) 0x117FFFFF ∧ ReservedWord 0x117FFFFF) ∧
    (Executes (Snap.state { mem := [(0x100, 0x23C00005)] }) ∧
      Fetches (Snap.state { mem := [(0x100, 0x23C00005)] }) 0x23C00005 ∧ ReservedForm 0x23C00005) := by
  unfold Executes Fetches Readable ReservedWord ReservedForm; decide

theorem witness_IgnoredBitsDoNotMatter :
    (∀ i < 32, ¬ Ignored 0x9C400253 i → BitVec.getLsbD (0x9C5FFE53 : Word) i = BitVec.getLsbD (0x9C400253 : Word) i) ∧
    (∀ i < 32, ¬ Ignored 0x067FFFFF i → BitVec.getLsbD (0x06000000 : Word) i = BitVec.getLsbD (0x067FFFFF : Word) i) := by
  constructor
  · intro i hi hn
    have : ¬ (10 ≤ i ∧ i ≤ 20) := fun h => hn (.inl ⟨by decide, by decide, h⟩)
    interval_cases i <;> first | rfl | omega
  · intro i hi hn
    have : ¬ i ≤ 22 := fun h => hn (.inr (.inr (.inr (.inr (.inr (.inr ⟨by decide, .inr ⟨h, by decide⟩⟩))))))
    interval_cases i <;> rfl

/-- A supervisor state with a full buffer about to run `int 255`. -/
def fullBuffer : State :=
  Snap.state { mode := .supervisor, mem := [(0x100, 0x07FF8000)], ibuf := List.replicate 256 0 }

theorem witness_EveryStepKeepsTheInvariant : fullBuffer.Inv ∧ ∃ t, step fullBuffer = .next t :=
  ⟨by unfold State.Inv; decide +kernel, _, eq_next_of_completes fullBuffer (by decide +kernel)⟩

theorem witness_StepsNeverChangePlatformOrSimdRegisters : ∃ t, step fullBuffer = .next t :=
  ⟨_, eq_next_of_completes fullBuffer (by decide +kernel)⟩

/-- A user state with an interrupt pending. -/
def interrupted : State := Snap.state { ibuf := [255, 0] }

/-- A supervisor state about to run `user`. -/
def entering : State := Snap.state { mode := .supervisor, xs := [(15, 0x1000)], mem := [(0x100, 0x09800000)] }

theorem witness_ModeChangesOnlyByDeliveryRtiAndUser :
    (∃ t, step interrupted = .next t ∧ interrupted.mode = .user ∧ t.mode = .supervisor) ∧
    (∃ t, step entering = .next t ∧ entering.mode = .supervisor ∧ t.mode = .user) :=
  ⟨⟨_, eq_next_of_completes interrupted (by decide), by decide, by decide⟩,
    ⟨_, eq_next_of_completes entering (by decide), by decide, by decide⟩⟩

/-- A user state in which `call` completes. -/
def calling : State :=
  Snap.state { pc := 0x101, xs := [(30, 4)], xu := [(16, 1), (17, 2), (18, 3), (19, 4), (20, 5), (21, 6), (22, 7), (23, 8)],
               stu := 0x3FF }

/-- The state after that `call`. -/
def called : State := nextOf (exec (.call (.reg 16)) calling) calling

theorem exec_calling : exec (.call (.reg 16)) calling = .next called := eq_next_of_completes calling (by decide +kernel)

theorem witness_UserCodeWritesNoSupervisorStateButByIntAndCall :
    calling.mode = .user ∧ (∃ t, exec (.int 0) calling = .next t) ∧ (∃ t, exec (.call (.reg 16)) calling = .next t) ∧
      called.mode = .user ∧ ∃ t, exec .ret called = .next t :=
  ⟨by decide, ⟨_, rfl⟩, ⟨_, exec_calling⟩, by decide +kernel, _, eq_next_of_completes called (by decide +kernel)⟩

theorem witness_UserCodeReadsNoSupervisorRegisterButSsp :
    calling.mode = .user ∧ (Vector.replicate 31 (4 : Word))[30] = calling.xs[30] := by decide

theorem witness_RetUndoesCall :
    exec (.call (.reg 16)) calling = .next called ∧
      ({ called with f := calling.f, pc := 7 } : State).mode = called.mode ∧
      ({ called with f := calling.f, pc := 7 } : State).mem = called.mem ∧
      ({ called with f := calling.f, pc := 7 } : State).memMap = called.memMap ∧
      ({ called with f := calling.f, pc := 7 } : State).ssp = called.ssp ∧
      ({ called with f := calling.f, pc := 7 } : State).readReg 15 = called.readReg 15 :=
  ⟨exec_calling, rfl, rfl, rfl, rfl, rfl⟩

/-- A supervisor state in which `pushu` completes. -/
def saving : State := Snap.state { mode := .supervisor, xs := [(30, 5)], xu := [(0, 1), (30, 2)], stu := 0x3FF }

theorem witness_PopuUndoesPushu :
    ∃ t, exec .pushu saving = .next t ∧ ({ t with pc := 7 } : State).mode = .supervisor ∧
      ({ t with pc := 7 } : State).mem = t.mem ∧ ({ t with pc := 7 } : State).memMap = t.memMap ∧
      ({ t with pc := 7 } : State).ssp = t.ssp :=
  ⟨_, eq_next_of_completes saving (by decide +kernel), by decide +kernel, rfl, rfl, rfl⟩

theorem witness_RtiResumesTheInterruptedProgram :
    interrupted.mode = .user ∧ interrupted.arriveBetween.ibuf ≠ [] ∧
      ∃ t, step interrupted = .next t ∧ t.mode = .supervisor :=
  ⟨by decide, by decide, _, eq_next_of_completes interrupted (by decide), by decide⟩

theorem witness_CarryChainsGiveWideSumsAndDifferences :
    (30 : Reg) ≠ 31 ∧ (0 : Reg) ≠ 31 ∧ (30 : Reg) ≠ 0 ∧ (31 : Reg) ≠ 30 ∧ (1 : Reg) ≠ 30 := by decide

/-- A divisor that is not 0: the literal -1 with a dividend that overflows, and the literal 1. -/
theorem witness_QuotientAndRemainderRecomposeTheDividend :
    ((Snap.state { xu := [(1, 0x80000000)] }).srcValue (.lit (-1)) ≠ 0 ∧
      (Snap.state { xu := [(1, 0x80000000)] }).readReg 1 = 0x80000000 ∧
      (Snap.state { xu := [(1, 0x80000000)] }).srcValue (.lit (-1)) = 0xFFFFFFFF) ∧
    ((Snap.state { }).srcValue (.lit 1) ≠ 0 ∧
      ¬ ((Snap.state { }).readReg 1 = 0x80000000 ∧ (Snap.state { }).srcValue (.lit 1) = 0xFFFFFFFF)) := by decide

theorem witness_MemoryReadsBackTheLastWrite :
    (∃ t, (Snap.state { }).writeMem 0xFFFFFFFF 1 = .next t) ∧ (∃ t, (Snap.state { }).writeMem 0x102 1 = .next t) ∧
      (0 : Word) ≠ 0xFFFFFFFF :=
  ⟨⟨_, eq_next_of_completes (Snap.state { }) (by decide)⟩, ⟨_, eq_next_of_completes (Snap.state { }) (by decide)⟩, by decide⟩

/-- The largest finite number and the smallest subnormal, of either sign, with sums, products and quotients that are not
zero; and pairs whose sum, difference, product and quotient are zero. -/
theorem witness_FiniteFloatArithmeticIsRoundedToNearest :
    (FinitePattern 0x7FEFFFFFFFFFFFFF ∧ FinitePattern 0x0000000000000001 ∧
      fVal 0x7FEFFFFFFFFFFFFF + fVal 0x0000000000000001 ≠ 0 ∧ fVal 0x7FEFFFFFFFFFFFFF - fVal 0x0000000000000001 ≠ 0 ∧
      fVal 0x7FEFFFFFFFFFFFFF * fVal 0x0000000000000001 ≠ 0 ∧ fVal 0x0000000000000001 ≠ 0 ∧
      fVal 0x7FEFFFFFFFFFFFFF ≠ 0 ∧ 0 < fVal 0x7FEFFFFFFFFFFFFF) ∧
    (FinitePattern 0x8000000000000001 ∧ fVal 0x8000000000000001 + fVal 0x0000000000000001 = 0 ∧
      fVal 0x0000000000000001 - fVal 0x0000000000000001 = 0) ∧
    (FinitePattern 0x8000000000000000 ∧ fVal 0x8000000000000000 * fVal 0x0000000000000001 = 0 ∧
      fVal 0x8000000000000000 = 0 ∧ 0 < fVal 0x0000000000000001) := by
  unfold FinitePattern; decide +kernel

theorem witness_FloatArithmeticOnSpecialOperands :
    (NanPattern 0x7FF0000000000001 ∧ NanPattern 0xFFFFFFFFFFFFFFFF) ∧
    (FinitePattern 0 ∧ FinitePattern 0x7FEFFFFFFFFFFFFF ∧ fVal 0x7FEFFFFFFFFFFFFF ≠ 0 ∧ FinitePattern 1 ∧ fVal 1 ≠ 0) ∧
    (FinitePattern 0x8000000000000001 ∧ fVal 0x8000000000000001 < 0) := by
  unfold FinitePattern NanPattern; decide +kernel

/-- A user state about to run `call %d0`, which stores at the address it jumps to. -/
def callingIntoItsFrame : State := Snap.state { xu := [(16, 3)], xs := [(30, 4)], mem := [(0x100, 0x31800010)] }

/-- A user state about to run a store, followed by a jump to the stored word. -/
def storingAndJumping : State :=
  Snap.state { xu := [(0, 0x200)], mem := [(0x100, 0x46200000), (0x101, 0x31000000), (0x200, 0)] }

/-- The states of a run of `n` steps. -/
def afterSteps : Nat → State → State
  | 0, s => s
  | n + 1, s => afterSteps n (nextOf (step s) s)

theorem witness_StoresIntoUpcomingInstructionsAreRefused :
    (kindAt (Snap.state { }).memMap 0x100 = some .memory ∧ (0x100 : Word) = (Snap.state { }).pc ∧
      kindAt (Snap.state { }).memMap 0x101 = some .memory ∧ (0x101 : Word) = (Snap.state { }).pc + 1) ∧
    (kindAt (Snap.state { xu := [(0, 0x101)] }).memMap ((Snap.state { xu := [(0, 0x101)] }).readReg 0) = some .memory ∧
      (Snap.state { xu := [(0, 0x101)] }).readReg 0 = (Snap.state { xu := [(0, 0x101)] }).pc + 1) ∧
    (Executes callingIntoItsFrame ∧ completes (step callingIntoItsFrame) = true ∧
      Executes (afterSteps 1 callingIntoItsFrame) ∧
      (afterSteps 1 callingIntoItsFrame).pc ∈ (afterSteps 1 callingIntoItsFrame).storesLast) ∧
    (Executes storingAndJumping ∧ completes (step storingAndJumping) = true ∧
      Executes (afterSteps 1 storingAndJumping) ∧ completes (step (afterSteps 1 storingAndJumping)) = true ∧
      Executes (afterSteps 2 storingAndJumping) ∧
      (afterSteps 2 storingAndJumping).pc ∈ (afterSteps 1 storingAndJumping).storesLast) ∧
    Fetches storingAndJumping 0x46200000 := by
  unfold Executes Fetches Readable; decide +kernel

theorem witness_InterruptBufferIsFirstInFirstOut :
    fullBuffer.ibuf.length ≤ 256 ∧ (Snap.state { }).ibuf.length ≤ 256 ∧
      (interrupted.mode = .user ∧ interrupted.extIrq = [] ∧ interrupted.ibuf = 255 :: [0]) := by decide +kernel

theorem witness_ClassFlagsFollowThePattern :
    (Flags.clear.setAllF 0x8000000000000000).fz = true ∧ (Flags.clear.setAllF 0x7FF0000000000000).finf = true ∧
      (Flags.clear.setAllF 0x7FF0000000000001).fnan = true ∧ (Flags.clear.setAllF 0xFFF0000000000000).fnnf = true := by
  decide

theorem witness_StatusWordLayoutRoundTrips :
    BitVec.extractLsb' 0 10 (0xFFFFFFFF : Word) = BitVec.extractLsb' 0 10 (0x3FF : Word) := by decide

end Sys2Proof.Tests
end

/-! What an instruction leaves alone, said once for all instructions: `exec_effect`. -/

namespace Sys2Proof.Machine

/-! ## What nearly every instruction keeps -/

/-- From `s` to `t` the mode, the buffer, the wait bit and the platform are as before, and memory stays canonical. Only
`int`, `stop`, `rti` and `user` can do otherwise. -/
structure KeepsControl (s t : State) : Prop where
  control : SameControl s t
  rest : SameRest s t
  wf : s.mem.wf = true → t.mem.wf = true

namespace KeepsControl

theorem refl (s : State) : KeepsControl s s := ⟨⟨rfl, rfl, rfl⟩, ⟨rfl, rfl, rfl, rfl, rfl⟩, id⟩

theorem trans {s t u : State} (h : KeepsControl s t) (k : KeepsControl t u) : KeepsControl s u := by
  obtain ⟨⟨hmode, hibuf, hstop⟩, ⟨hm, hirq, hmap, hvec, hprev⟩, hwf⟩ := h
  obtain ⟨⟨kmode, kibuf, kstop⟩, ⟨km, kirq, kmap, kvec, kprev⟩, kwf⟩ := k
  exact ⟨⟨kmode.trans hmode, kibuf.trans hibuf, kstop.trans hstop⟩,
    ⟨km.trans hm, kirq.trans hirq, kmap.trans hmap, kvec.trans hvec, kprev.trans hprev⟩, kwf ∘ hwf⟩

theorem mode_eq {s t : State} (h : KeepsControl s t) : t.mode = s.mode := h.control.1

theorem setPc (s : State) (v : Word) : KeepsControl s { s with pc := v } :=
  ⟨⟨rfl, rfl, rfl⟩, ⟨rfl, rfl, rfl, rfl, rfl⟩, id⟩

theorem setXs (s : State) (xs : Vector Word 31) : KeepsControl s { s with xs := xs } :=
  ⟨⟨rfl, rfl, rfl⟩, ⟨rfl, rfl, rfl, rfl, rfl⟩, id⟩

theorem setXu (s : State) (xu : Vector Word 31) : KeepsControl s { s with xu := xu } :=
  ⟨⟨rfl, rfl, rfl⟩, ⟨rfl, rfl, rfl, rfl, rfl⟩, id⟩

theorem drawWord (s : State) : KeepsControl s s.drawWord.2 := ⟨⟨rfl, rfl, rfl⟩, ⟨rfl, rfl, rfl, rfl, rfl⟩, id⟩

theorem drawNan (s : State) : KeepsControl s s.drawNan.2 := ⟨⟨rfl, rfl, rfl⟩, ⟨rfl, rfl, rfl, rfl, rfl⟩, id⟩

theorem writeF (s : State) (j : FReg) (d : Word64) : KeepsControl s (s.writeF j d) :=
  ⟨⟨rfl, rfl, rfl⟩, ⟨rfl, rfl, rfl, rfl, rfl⟩, id⟩

theorem writeReg (s : State) (i : Reg) (v : Word) : KeepsControl s (s.writeReg i v) := by
  constructor <;> simp [SameControl, SameRest]

theorem setFlagsOf (s : State) (md : Mode) (fl : Flags) : KeepsControl s (s.setFlagsOf md fl) := by
  constructor <;> simp [SameControl, SameRest]

theorem setFlags (s : State) (fl : Flags) : KeepsControl s (s.setFlags fl) := setFlagsOf s s.mode fl

/-- The write-back of nearly every integer instruction: flags, then the register. -/
theorem writeBack (s : State) (fl : Flags) (z : Reg) (r : Word) : KeepsControl s ((s.setFlags fl).writeReg z r) :=
  (setFlags s fl).trans (writeReg _ z r)

theorem putF (s : State) (j : FReg) (d : Word64) : KeepsControl s (s.putF j d) := (writeF s j d).trans (setFlags _ _)

theorem putResult (s : State) (j : FReg) (r : Option Word64) : KeepsControl s (s.putResult j r) := by
  cases r with
  | some d => exact putF s j d
  | none => exact (drawNan s).trans (putF _ j _)

theorem writeMem {s t : State} {a v : Word} (h : s.writeMem a v = .next t) : KeepsControl s t := by
  obtain ⟨-, rfl⟩ := State.writeMem_eq_next.1 h
  exact ⟨⟨rfl, rfl, rfl⟩, ⟨rfl, rfl, rfl, rfl, rfl⟩, Memory.wf_writeWord a v⟩

theorem writeMem2 {s t : State} {a : Word} {d : Word64} (h : s.writeMem2 a d = .next t) : KeepsControl s t := by
  obtain ⟨u, hu, ht⟩ := andThen_eq_next.1 h
  exact (writeMem hu).trans (writeMem ht)

theorem push {s t : State} {v : Word} (h : s.push v = .next t) : KeepsControl s t :=
  (writeReg s _ _).trans (writeMem h)

theorem push2 {s t : State} {d : Word64} (h : s.push2 d = .next t) : KeepsControl s t :=
  (writeReg s _ _).trans (writeMem2 h)

theorem pop {s t : State} {v : Word} (h : s.pop = .next (v, t)) : KeepsControl s t := by
  obtain ⟨-, rfl⟩ := State.pop_eq_next.1 h
  exact writeReg s _ _

theorem pop2 {s t : State} {d : Word64} (h : s.pop2 = .next (d, t)) : KeepsControl s t := by
  obtain ⟨-, rfl⟩ := State.pop2_eq_next.1 h
  exact writeReg s _ _

theorem pushAllS {s t : State} {l : List Word} (h : s.pushAllS l = .next t) : KeepsControl s t := by
  obtain ⟨m, st, rfl, hwf⟩ := State.pushAllS_shape h
  exact ⟨⟨rfl, rfl, rfl⟩, ⟨rfl, rfl, rfl, rfl, rfl⟩, hwf⟩

theorem popAllS {s t : State} {n : Nat} {l : List Word} (h : s.popAllS n = .next (l, t)) : KeepsControl s t := by
  obtain ⟨rfl, -⟩ := State.popAllS_shape h
  exact setXs s _

theorem writeRegsDown (l : List Word) (s : State) (i : Reg) : KeepsControl s (s.writeRegsDown i l) := by
  induction l generalizing s i with
  | nil => exact refl s
  | cons v rest ih => exact (writeReg s i v).trans (ih _ _)

theorem writeUserDown (l : List Word) (s : State) (i : Nat) : KeepsControl s (s.writeUserDown i l) := by
  induction l generalizing s i with
  | nil => exact refl s
  | cons v rest ih => exact (setXu s _).trans (ih _ _)

end KeepsControl

/-! ## The instructions by family -/

/-- If `r` completes, it does so in a state that keeps what `KeepsControl` says of `s`. -/
def CompletesKeeping (s : State) (r : Result State) : Prop := ∀ t, r = .next t → KeepsControl s t

namespace CompletesKeeping

theorem next {s t : State} (h : KeepsControl s t) : CompletesKeeping s (.next t) := by
  rintro _ ⟨⟩; exact h

theorem int3 (f : Word → Word → Flags → Word × Flags) (x : Reg) (y : Src) (z : Reg) (s : State) :
    CompletesKeeping s (int3 f x y z s) := next (.writeBack s _ z _)

theorem shiftBy (op : Word → Nat → Bool → Alu) (x : Reg) (y : Count) (s : State) :
    CompletesKeeping s (shiftBy op x y s) := next (.writeBack s _ x _)

theorem replaceZNV (op : Word → Word × Bool) (x : Reg) (s : State) : CompletesKeeping s (replaceZNV op x s) :=
  next (.writeBack s _ x _)

theorem branchIf (cond : Flags → Bool) (x : Target) (s : State) : CompletesKeeping s (branchIf cond x s) := by
  refine next ?_
  split
  · exact .setPc s _
  · exact .refl s

theorem fp3 (num : FpNum) (op : FpNum → Word64 → Word64 → Option Word64) (f g h : FReg) (s : State) :
    CompletesKeeping s (fp3 num op f g h s) := next (.putResult s h _)

theorem fp2 (num : FpNum) (op : FpNum → Word64 → Option Word64) (f g : FReg) (s : State) :
    CompletesKeeping s (fp2 num op f g s) := next (.putResult s g _)

theorem execLd (x y : Reg) (s : State) : CompletesKeeping s (execLd x y s) := by
  intro t h
  obtain ⟨v, -, ⟨⟩⟩ := andThen_eq_next.1 h
  exact .writeBack s _ x v

theorem execPop (x : Reg) (s : State) : CompletesKeeping s (execPop x s) := by
  intro t h
  obtain ⟨p, hp, ⟨⟩⟩ := andThen_eq_next.1 h
  exact (KeepsControl.pop hp).trans (.writeBack _ _ x _)

theorem execPops (s : State) : CompletesKeeping s (execPops s) := by
  intro t h
  obtain ⟨p, hp, ⟨⟩⟩ := andThen_eq_next.1 h
  exact (KeepsControl.pop hp).trans (.setFlags _ _)

theorem execFpop (f : FReg) (s : State) : CompletesKeeping s (execFpop f s) := by
  intro t h
  obtain ⟨p, hp, ⟨⟩⟩ := andThen_eq_next.1 h
  exact (KeepsControl.pop2 hp).trans (.putF _ f _)

theorem execFld (x : Reg) (g : FReg) (s : State) : CompletesKeeping s (execFld x g s) := by
  intro t h
  obtain ⟨d, -, ⟨⟩⟩ := andThen_eq_next.1 h
  exact .putF s g d

theorem execFst (x : Reg) (g : FReg) (s : State) : CompletesKeeping s (execFst x g s) := by
  intro t h
  obtain ⟨u, hu, ⟨⟩⟩ := andThen_eq_next.1 h
  exact (KeepsControl.writeMem2 hu).trans (.setFlags u _)

theorem floatToInt (num : FpNum) (f : FReg) (y : Reg) (s : State) : CompletesKeeping s (floatToInt num f y s) := by
  unfold Machine.floatToInt
  split
  · exact next (.writeBack s _ y _)
  · exact next ((KeepsControl.drawWord s).trans (.writeBack _ _ y _))

theorem execCall (x : Target) (s : State) : CompletesKeeping s (execCall x s) := by
  intro t h
  obtain ⟨u, hu, ⟨⟩⟩ := andThen_eq_next.1 h
  exact (KeepsControl.pushAllS hu).trans <| (KeepsControl.writeRegsDown _ u 23).trans <|
    (KeepsControl.setFlags _ _).trans <| (KeepsControl.writeReg _ _ _).trans (.setPc _ _)

theorem execRet (s : State) : CompletesKeeping s (execRet s) := by
  intro t h
  obtain ⟨p, hp, ⟨⟩⟩ := andThen_eq_next.1 h
  exact (KeepsControl.popAllS hp).trans <| (KeepsControl.writeRegsDown _ p.2 23).trans <|
    (KeepsControl.setFlags _ _).trans (.setPc _ _)

theorem supervisorOnly {s : State} {r : Result State} (h : CompletesKeeping s r) :
    CompletesKeeping s (supervisorOnly s r) := by
  unfold Machine.supervisorOnly
  split
  · intro t ht; cases ht
  · exact h

theorem execPushu (s : State) : CompletesKeeping s (execPushu s) := by
  refine supervisorOnly fun t h => ?_
  obtain ⟨u, hu, ⟨⟩⟩ := andThen_eq_next.1 h
  exact (KeepsControl.pushAllS hu).trans <| (KeepsControl.drawWord u).trans (.setXs _ _)

theorem execPopu (s : State) : CompletesKeeping s (execPopu s) := by
  refine supervisorOnly fun t h => ?_
  obtain ⟨p, hp, ⟨⟩⟩ := andThen_eq_next.1 h
  exact (KeepsControl.popAllS hp).trans <| (KeepsControl.setFlagsOf _ _ _).trans (.writeUserDown _ _ 30)

end CompletesKeeping

/-! ## What an instruction can do to the mode, the buffer and the wait bit -/

/-- `x[0..7]` of `src` in place of those of `dst`, which is what `int` does to the supervisor bank (R264). -/
def copyLow (src dst : Vector Word 31) : Vector Word 31 :=
  (((((((dst.set 0 src[0]).set 1 src[1]).set 2 src[2]).set 3 src[3]).set 4 src[4]).set 5 src[5]).set 6 src[6]).set 7
    src[7]

theorem getElem_copyLow (src dst : Vector Word 31) {k : Nat} (h : k < 31) :
    (copyLow src dst)[k] = if k < 8 then src[k] else dst[k] := by
  by_cases hk : k < 8
  · obtain rfl | rfl | rfl | rfl | rfl | rfl | rfl | rfl :
      k = 0 ∨ k = 1 ∨ k = 2 ∨ k = 3 ∨ k = 4 ∨ k = 5 ∨ k = 6 ∨ k = 7 := by omega
    all_goals simp [copyLow]
  · have hne : ∀ j < 8, j ≠ k := fun j hj e => hk (e ▸ hj)
    simp [copyLow, hk, hne]

/-- `int N` (R264): eight registers are copied to the supervisor bank, and N joins the buffer. -/
theorem execInt_eq (n : Nat) (s : State) :
    execInt n s = .next ((s.withSupervisor (copyLow s.bank s.xs) s.sts).enqueue (BitVec.ofNat 8 n)) := rfl

/-- `user` completes only in supervisor mode (R257, R268). -/
theorem execUser_eq_next {s t : State} :
    execUser s = .next t ↔ s.mode = .supervisor ∧ t = s.returnToUser := by
  unfold execUser supervisorOnly
  cases s.mode <;> simp [eq_comm]

/-- Everything that a completed instruction can do to the mode, the buffer, the wait bit and the platform. -/
theorem exec_effect {i : Instr} {s t : State} (h : exec i s = .next t) :
    KeepsControl s t ∨ ((i = .rti ∨ i = .user) ∧ t = s.returnToUser) ∨
      (∃ n, i = .int n ∧ t = (s.withSupervisor (copyLow s.bank s.xs) s.sts).enqueue (BitVec.ofNat 8 n)) ∨
      (i = .stop ∧ t = { s with stopped := true }) := by
  cases i with
  | rti => exact .inr (.inl ⟨.inl rfl, (Host.Outcome.next.inj h).symm⟩)
  | user => exact .inr (.inl ⟨.inr rfl, (execUser_eq_next.1 h).2⟩)
  | int n => exact .inr (.inr (.inl ⟨n, rfl, (Host.Outcome.next.inj h).symm⟩))
  | stop => exact .inr (.inr (.inr ⟨rfl, (Host.Outcome.next.inj h).symm⟩))
  | and x y z | or x y z | xor x y z | add x y z | sub x y z | addc x y z | subc x y z | mullo x y z | mulhi x y z
  | mulslo x y z | mulshi x y z | div x y z | divs x y z | mod x y z | mods x y z =>
    exact .inl (CompletesKeeping.int3 _ x y z s t h)
  | asl x y | asr x y | shl x y | shr x y | rol x y | ror x y =>
    dsimp only [exec] at h
    exact .inl (CompletesKeeping.shiftBy _ x y s t h)
  | neg x | inc x | dec x => exact .inl (CompletesKeeping.replaceZNV _ x s t h)
  | nor x => exact .inl (CompletesKeeping.next (.writeBack s _ x _) t h)
  | cp x y => exact .inl (CompletesKeeping.next (.writeReg s y _) t h)
  | clr x | set x => exact .inl (CompletesKeeping.next (.writeReg s x _) t h)
  | cmp x y | bit x y => exact .inl (CompletesKeeping.next (.setFlags s _) t h)
  | fcmp f g => exact .inl (CompletesKeeping.next (.setFlags s _) t h)
  | clrz | clrn | clrc | clrv | setz | setn | setc | setv =>
    exact .inl (CompletesKeeping.next (.setFlags s _) t h)
  | beq x | bne x | bgt x | blt x | bge x | bpl x | bmi x | bvc x | bvs x | bcc x | bcs x | bfeq x | bfne x | bfgt x
  | bflt x | bfge x | bfpl x | bfmi x | bfinf x | bfninf x | bfnnf x | bfnnnf x | bfnan x | bfnnan x | bfdn x
  | bfndn x =>
    dsimp only [exec] at h
    exact .inl (CompletesKeeping.branchIf _ x s t h)
  | fadd f g k | fsub f g k | fmul f g k | fdiv f g k | fatan f g k =>
    dsimp only [exec] at h
    exact .inl (CompletesKeeping.fp3 _ _ f g k s t h)
  | fsqrt f g | fsin f g | fcos f g | flog f g | fexp f g =>
    dsimp only [exec] at h
    exact .inl (CompletesKeeping.fp2 _ _ f g s t h)
  | fcp f g => exact .inl (CompletesKeeping.next (.putF s g _) t h)
  | fneg f | fabs f => exact .inl (CompletesKeeping.next (.putF s f _) t h)
  | fpi f | fe f => exact .inl (CompletesKeeping.next (.writeF s f _) t h)
  | fclr f => exact .inl (CompletesKeeping.next ((KeepsControl.writeF s f _).trans (.setFlags _ _)) t h)
  | fitof x g => exact .inl (CompletesKeeping.next ((KeepsControl.writeF s g _).trans (.setFlags _ _)) t h)
  | fftoi f y => exact .inl (CompletesKeeping.floatToInt _ f y s t h)
  | ld x y => exact .inl (CompletesKeeping.execLd x y s t h)
  | fld x g => exact .inl (CompletesKeeping.execFld x g s t h)
  | fst x g => exact .inl (CompletesKeeping.execFst x g s t h)
  | st x y => exact .inl (.writeMem h)
  | push x => exact .inl (.push h)
  | pushs => exact .inl (.push h)
  | fpush f => exact .inl (.push2 h)
  | pop x => exact .inl (CompletesKeeping.execPop x s t h)
  | pops => exact .inl (CompletesKeeping.execPops s t h)
  | fpop f => exact .inl (CompletesKeeping.execFpop f s t h)
  | jmp x => exact .inl (CompletesKeeping.next (.setPc s _) t h)
  | rts => exact .inl (CompletesKeeping.next (.setPc s _) t h)
  | jsr => exact .inl (CompletesKeeping.next ((KeepsControl.writeReg s lrReg _).trans (.setPc _ _)) t h)
  | nop | simdNop => exact .inl (CompletesKeeping.next (.refl s) t h)
  | call x => exact .inl (CompletesKeeping.execCall x s t h)
  | ret => exact .inl (CompletesKeeping.execRet s t h)
  | pushu => exact .inl (CompletesKeeping.execPushu s t h)
  | popu => exact .inl (CompletesKeeping.execPopu s t h)

end Sys2Proof.Machine

/-! The parts of a step that the statements about `step` use: arrivals, the wait, delivery and the fetch (R40). -/

namespace Sys2Proof.Machine

/-- A fetch answers exactly the readable word at `pc` that neither of the last two instructions stored to (R54, R67). -/
theorem State.fetch_eq_next {s : State} {w : Word} : s.fetch = .next w ↔ Fetches s w := by
  unfold State.fetch Fetches
  by_cases h : s.pc ∈ s.storesLast ∨ s.pc ∈ s.storesPrev
  · simp only [h, if_true, reduceCtorEq, false_iff]
    rintro ⟨-, hlast, hprev⟩
    exact h.elim hlast hprev
  · rw [if_neg h, State.readMem_eq_next]
    exact ⟨fun hr => ⟨hr, not_or.1 h⟩, And.left⟩

theorem Fetches.congr {s t : State} {w : Word} (hpc : t.pc = s.pc) (hmap : t.memMap = s.memMap) (hmem : t.mem = s.mem)
    (hlast : t.storesLast = s.storesLast) (hprev : t.storesPrev = s.storesPrev) : Fetches t w ↔ Fetches s w := by
  simp only [Fetches, Readable, hpc, hmap, hmem, hlast, hprev]

/-- What arrives before a step and the end of a wait do not change what is fetched. -/
theorem fetches_arriveBetween_wake {s : State} {w : Word} : Fetches s.arriveBetween.wake w ↔ Fetches s w := by
  apply Fetches.congr <;> simp

theorem State.waits_eq_true_iff {s : State} : s.waits = true ↔ s.stopped = true ∧ s.ibuf = [] := by
  simp [State.waits_eq]

/-- An interrupt is delivered exactly if the mode is user and the buffer holds it first (R284). -/
theorem State.pendingInterrupt_eq_some {s : State} {n : BitVec 8} :
    s.pendingInterrupt = some n ↔ s.mode = .user ∧ ∃ rest, s.ibuf = n :: rest := by
  rw [State.pendingInterrupt_eq]
  cases s.mode <;> simp [List.head?_eq_some_iff]

theorem State.pendingInterrupt_eq_none {s : State} :
    s.pendingInterrupt = none ↔ s.mode = .supervisor ∨ s.ibuf = [] := by
  rw [State.pendingInterrupt_eq]
  cases s.mode <;> simp

/-- The state in which an instruction acts, put together from the parts of a step (R27, R40). -/
theorem State.acting_eq (s : State) : s.acting = s.arriveBetween.wake.advance.arriveDuring := by
  simp [State.acting, State.wake, State.advance]

@[simp] theorem State.acting_mode (s : State) : s.acting.mode = s.mode := by simp [State.acting]

theorem executes_iff {s : State} :
    Executes s ↔ s.arriveBetween.waits = false ∧ s.arriveBetween.wake.pendingInterrupt = none := by
  rw [← Bool.not_eq_true, State.waits_eq_true_iff, State.pendingInterrupt_eq_none]
  unfold Executes
  cases hm : s.mode <;> simp [hm]

/-! ## The step as equations, one for each of its three outcomes -/

theorem step_of_waits {s : State} (hw : s.arriveBetween.waits = true) :
    step s = .next s.arriveBetween.arriveDuring := by simp [step, hw]

theorem step_of_pending {s : State} {n : BitVec 8} (hw : s.arriveBetween.waits = false)
    (hp : s.arriveBetween.wake.pendingInterrupt = some n) :
    step s = .next (s.arriveBetween.wake.deliver n).arriveDuring := by simp [step, hw, hp]

theorem step_of_executes {s : State} {w : Word} {i : Instr} (he : Executes s) (hf : Fetches s w)
    (hd : decode w = .ok i) : step s = exec i s.acting := by
  obtain ⟨hw, hp⟩ := executes_iff.1 he
  have hfetch := State.fetch_eq_next.2 (fetches_arriveBetween_wake.2 hf)
  simp [step, hw, hp, runInstr, hfetch, hd, State.acting_eq]

/-- `step_eq_next` in the terms the statements use: a step waits, delivers, or executes what it fetches (R40). -/
theorem step_cases {s t : State} (h : step s = .next t) :
    t = s.arriveBetween.arriveDuring ∨
    (∃ n rest, s.mode = .user ∧ s.arriveBetween.ibuf = n :: rest ∧
      t = (s.arriveBetween.wake.deliver n).arriveDuring) ∨
    (∃ w i, Executes s ∧ Fetches s w ∧ decode w = .ok i ∧ exec i s.acting = .next t) := by
  obtain ⟨-, rfl⟩ | ⟨n, -, hp, rfl⟩ | ⟨w, i, hw, hp, hf, hd, hx⟩ := step_eq_next h
  · exact .inl rfl
  · obtain ⟨hm, rest, hb⟩ := State.pendingInterrupt_eq_some.1 hp
    exact .inr (.inl ⟨n, rest, by simpa using hm, hb, rfl⟩)
  · exact .inr (.inr ⟨w, i, executes_iff.2 ⟨hw, hp⟩, fetches_arriveBetween_wake.1 (State.fetch_eq_next.1 hf), hd,
      State.acting_eq s ▸ hx⟩)

/-! ## The invariant along the parts of a step -/

namespace State.Inv

theorem arriveBetween {s : State} (h : s.Inv) : s.arriveBetween.Inv :=
  ⟨by simpa using h.1, s.arriveBetween_length_le h.2⟩

theorem arriveDuring {s : State} (h : s.Inv) : s.arriveDuring.Inv :=
  ⟨by simpa using h.1, s.arriveDuring_length_le h.2⟩

theorem enqueue {s : State} (h : s.Inv) (n : BitVec 8) : (s.enqueue n).Inv :=
  ⟨by simpa using h.1, s.enqueue_length_le n h.2⟩

theorem withSupervisor {s : State} (h : s.Inv) (xs : Vector Word 31) (sts : Flags) : (s.withSupervisor xs sts).Inv := h

theorem deliver {s : State} (h : s.Inv) (n : BitVec 8) : (s.deliver n).Inv :=
  ⟨h.1, by have := h.2; simp [State.deliver]; omega⟩

theorem acting {s : State} (h : s.Inv) : s.acting.Inv := by
  rw [State.acting_eq]
  exact arriveDuring (s := s.arriveBetween.wake.advance) h.arriveBetween

/-- Whatever an instruction does, memory stays canonical and the buffer within its depth (R37, R50). -/
theorem exec {i : Instr} {s t : State} (h : s.Inv) (hx : exec i s = .next t) : t.Inv := by
  obtain hk | ⟨-, rfl⟩ | ⟨n, -, rfl⟩ | ⟨-, rfl⟩ := exec_effect hx
  · obtain ⟨⟨-, hibuf, -⟩, -, hwf⟩ := hk
    exact ⟨hwf h.1, hibuf ▸ h.2⟩
  · exact h
  · exact (h.withSupervisor _ _).enqueue _
  · exact h

end State.Inv

/-- Only `rti` and `user` change the mode, to user (R31). -/
theorem exec_mode {i : Instr} {s t : State} (h : Machine.exec i s = .next t) :
    t.mode = s.mode ∨ (i = .rti ∨ i = .user) ∧ t.mode = .user := by
  obtain hk | ⟨hi, rfl⟩ | ⟨n, -, rfl⟩ | ⟨-, rfl⟩ := exec_effect h
  · exact .inl hk.mode_eq
  · exact .inr ⟨hi, rfl⟩
  · exact .inl (State.enqueue_mode _ _)
  · exact .inl rfl

theorem exec_mode_of_user {i : Instr} {s t : State} (hm : s.mode = .user) (h : exec i s = .next t) : t.mode = .user := by
  obtain hmode | ⟨-, hmode⟩ := exec_mode h
  · exact hmode.trans hm
  · exact hmode

end Sys2Proof.Machine


/-! The statements of 10_state.md about the state after reset and about `step`. -/

namespace Sys2Proof.Proofs
open Sys2Proof.Machine

/-- Settles O46: by the three outcomes of a step, of which only an instruction stores or requests. -/
theorem everyStepKeepsTheInvariant : Obligations.EveryStepKeepsTheInvariant := by
  intro s t h hstep
  obtain rfl | ⟨n, rest, -, -, rfl⟩ | ⟨w, i, -, -, -, hx⟩ := step_cases hstep
  · exact h.arriveBetween.arriveDuring
  · exact State.Inv.arriveDuring (State.Inv.deliver (s := s.arriveBetween.wake) h.arriveBetween n)
  · exact h.acting.exec hx

/-- Settles O48: a wait keeps the mode, a delivery enters supervisor mode, and an instruction that leaves it is `rti` or
`user`. -/
theorem modeChangesOnlyByDeliveryRtiAndUser : Obligations.ModeChangesOnlyByDeliveryRtiAndUser := by
  intro s t hstep
  obtain rfl | ⟨n, rest, hm, hb, rfl⟩ | ⟨w, i, -, hf, hd, hx⟩ := step_cases hstep
  · exact ⟨fun hs ht => by simp [hs] at ht, fun hs ht => by simp [hs] at ht⟩
  · exact ⟨fun _ _ => ⟨n, rest, hb, by simp [State.deliver], by simp [State.deliver, State.vecOf]⟩,
      fun hs => by simp [hm] at hs⟩
  · refine ⟨fun hs ht => ?_, fun hs ht => ⟨w, hf.1.2, ?_⟩⟩
    · rw [exec_mode_of_user (by simpa using hs) hx] at ht
      cases ht
    · obtain hmode | ⟨rfl | rfl, -⟩ := exec_mode hx
      · rw [hmode, State.acting_mode, hs] at ht
        cases ht
      · exact .inl hd
      · exact .inr hd

/-- Settles O2: memory and the buffer are empty after reset. -/
theorem resetStateSatisfiesTheInvariant : Obligations.ResetStateSatisfiesTheInvariant := fun _ =>
  ⟨show Memory.wf [] = true from rfl, show ([] : List (BitVec 8)).length ≤ 256 from Nat.zero_le 256⟩

/-- Settles O4: the executing outcome of a step. -/
theorem stepRunsTheDecodedInstruction : Obligations.StepRunsTheDecodedInstruction := fun _ _ _ he hf hd =>
  step_of_executes he hf hd

/-- Settles O5: the waiting and the delivering outcome of a step. -/
theorem stepWaitsOrDelivers : Obligations.StepWaitsOrDelivers := by
  refine fun s => ⟨fun hs hb => ?_, fun n rest hm hb => ?_⟩
  · exact step_of_waits (State.waits_eq_true_iff.2 ⟨by simpa using hs, hb⟩)
  · have hw : s.arriveBetween.waits = false := by simp [State.waits_eq, hb]
    have hp : s.arriveBetween.wake.pendingInterrupt = some n :=
      State.pendingInterrupt_eq_some.2 ⟨by simpa using hm, rest, hb⟩
    rw [step_of_pending hw hp]
    simp [State.deliver, State.wake, State.vecOf, hb]

end Sys2Proof.Proofs

/-! The statements of 10_state.md about the register file and the status word, with the equations of a register write
and the bits of the status word. -/

namespace Sys2Proof.Machine

/-! ## Register writes, by the register and the mode (R25) -/

theorem State.writeReg_pcReg (s : State) (v : Word) : s.writeReg pcReg v = { s with pc := v } := rfl

theorem Reg.ne_pc_of_lt {i : Reg} (h : i.val < 31) : i ≠ pcReg := by
  rintro rfl
  exact absurd h (by decide)

theorem setIfInBounds_of_lt (bank : Vector Word 31) {k : Nat} (v : Word) (h : k < 31) :
    bank.setIfInBounds k v = bank.set k v := by
  simp [Vector.setIfInBounds, Vector.set, Array.setIfInBounds, h]

theorem State.writeReg_of_user (s : State) {i : Reg} (v : Word) (h : i.val < 31) (hm : s.mode = .user) :
    s.writeReg i v = { s with xu := s.xu.set i.val v } := by
  simp only [State.writeReg, if_neg (Reg.ne_pc_of_lt h), hm, setIfInBounds_of_lt _ v h]

theorem State.writeReg_of_supervisor (s : State) {i : Reg} (v : Word) (h : i.val < 31) (hm : s.mode = .supervisor) :
    s.writeReg i v = { s with xs := s.xs.set i.val v } := by
  simp only [State.writeReg, if_neg (Reg.ne_pc_of_lt h), hm, setIfInBounds_of_lt _ v h]

/-! ## The status word (R32) -/

/-- The ten flags and S in the order of their bits (D9). -/
def statusBits (md : Mode) (fl : Flags) : List Bool :=
  [fl.z, fl.n, fl.v, fl.c, fl.fz, fl.fn, fl.finf, fl.fnnf, fl.fnan, fl.fdn, sFlag md]

/-- The number whose binary digits are `l`, the lowest first. -/
def ofDigits (l : List Bool) : Nat := l.foldr (fun b n => Nat.bit b n) 0

theorem testBit_ofDigits (l : List Bool) (k : Nat) : (ofDigits l).testBit k = l.getD k false := by
  induction l generalizing k with
  | nil => simp [ofDigits]
  | cons b rest ih =>
    cases k with
    | zero => simp [ofDigits]
    | succ k => simpa [ofDigits, Nat.testBit_bit_succ] using ih k

theorem stWord_eq (md : Mode) (fl : Flags) : stWord md fl = BitVec.ofNat 32 (ofDigits (statusBits md fl)) := by
  simp only [stWord, ofDigits, statusBits, Config.stLayout, List.foldr, Nat.bit_val]
  congr 1
  ring

/-- Each bit of the status word is its flag, S, or 0 (R32). -/
theorem getLsbD_stWord (md : Mode) (fl : Flags) (k : Nat) (h : k < 32) :
    (stWord md fl).getLsbD k = (statusBits md fl).getD k false := by
  rw [stWord_eq, BitVec.getLsbD_ofNat, testBit_ofDigits]
  simp [h]

/-- The flags that a word loads follow from its low ten bits (R32). -/
theorem flagsOfWord_congr {w w' : Word} (h : ∀ k < 10, w.getLsbD k = w'.getLsbD k) : flagsOfWord w = flagsOfWord w' := by
  simp only [flagsOfWord, Config.stLayout, h, Nat.reduceLT]

theorem flagsOfWord_stWord (md : Mode) (fl : Flags) : flagsOfWord (stWord md fl) = fl := by
  simp only [flagsOfWord, Config.stLayout, getLsbD_stWord, Nat.reduceLT]
  rfl

end Sys2Proof.Machine

namespace Sys2Proof.Proofs
open Sys2Proof.Machine

/-- Settles O6: the equations of a register read and write, by the register and the mode. -/
theorem registerFileFollowsModeAndPc : Obligations.RegisterFileFollowsModeAndPc := by
  refine fun s i v => ⟨?_, fun h => ⟨fun hm => ?_, fun hm => ?_⟩, ?_, fun h =>
    ⟨s.writeReg_of_user v h, s.writeReg_of_supervisor v h⟩⟩
  · rintro rfl
    exact s.readReg_pc
  · simp [s.readReg_of_lt h, State.bank, hm]
  · simp [s.readReg_of_lt h, State.bank, hm]
  · rintro rfl
    exact s.writeReg_pcReg v

/-- Settles O8: all from the bits of the status word. -/
theorem statusWordLayoutRoundTrips : Obligations.StatusWordLayoutRoundTrips := by
  refine ⟨fun md fl => ?_, flagsOfWord_stWord, fun w w' h => flagsOfWord_congr fun k hk => ?_, fun s md fl => ?_⟩
  · have hbits : (List.range 32).map (stWord md fl).getLsbD =
        (List.range 32).map fun k => (statusBits md fl).getD k false :=
      List.map_congr_left fun k hk => getLsbD_stWord md fl k (List.mem_range.1 hk)
    rw [hbits]
    cases md <;> rfl
  · have hbit := congrArg (fun u => u.getLsbD k) h
    simpa [BitVec.getLsbD_extractLsb', hk] using hbit
  · cases md <;> rfl

end Sys2Proof.Proofs

/-! What user code reads and writes of the supervisor's registers and flags (R26, R293). The one idea: to replace the
supervisor's registers and flags (`State.mapSup`) commutes with every operation of user mode that does not touch them, so
an instruction made of such operations neither reads nor writes them. `call` and `ret` commute with those replacements
that leave SSP to them. -/

namespace Sys2Proof.Machine

/-! ## Sequences of results -/

@[simp] theorem mapNext_next (f : State → State) (t : State) : mapNext f (.next t) = .next (f t) := rfl

theorem andThen_assoc {α β γ : Type} (r : Result α) (k : α → Result β) (l : β → Result γ) :
    andThen (andThen r k) l = andThen r fun a => andThen (k a) l := by
  cases r <;> rfl

/-- Two sequences are the same if they go on alike wherever the first part completes. -/
theorem andThen_congr {α β : Type} {r : Result α} {k l : α → Result β} (h : ∀ a, r = .next a → k a = l a) :
    andThen r k = andThen r l := by
  cases r with
  | next a => exact h a rfl
  | fault e => rfl
  | refused e => rfl

theorem mapNext_andThen {α : Type} (f : State → State) (r : Result α) (k : α → Result State) :
    mapNext f (andThen r k) = andThen r fun a => mapNext f (k a) := by
  cases r <;> rfl

theorem andThen_mapNext {α : Type} (f : State → State) (r : Result State) (k : State → Result α) :
    andThen (mapNext f r) k = andThen r fun t => k (f t) := by
  cases r <;> rfl

/-! ## The replacement -/

/-- `s` with its supervisor bank changed by `ρ`, and `g` for its supervisor flags. -/
def State.mapSup (ρ : Vector Word 31 → Vector Word 31) (g : Flags) (s : State) : State := s.withSupervisor (ρ s.xs) g

section
variable (ρ : Vector Word 31 → Vector Word 31) (g : Flags)

/-! ## Operations that commute with the replacement -/

@[simp] theorem State.mapSup_mode (s : State) : (s.mapSup ρ g).mode = s.mode := rfl

@[simp] theorem State.mapSup_pc (s : State) : (s.mapSup ρ g).pc = s.pc := rfl

@[simp] theorem State.readF_mapSup (s : State) (j : FReg) : (s.mapSup ρ g).readF j = s.readF j := rfl

@[simp] theorem State.writeF_mapSup (s : State) (j : FReg) (d : Word64) :
    (s.mapSup ρ g).writeF j d = (s.writeF j d).mapSup ρ g := rfl

@[simp] theorem State.setPc_mapSup (s : State) (v : Word) :
    { s.mapSup ρ g with pc := v } = State.mapSup ρ g { s with pc := v } := rfl

@[simp] theorem State.drawWord_mapSup (s : State) :
    (s.mapSup ρ g).drawWord = (s.drawWord.1, s.drawWord.2.mapSup ρ g) := rfl

@[simp] theorem State.readMem_mapSup (s : State) (a : Word) : (s.mapSup ρ g).readMem a = s.readMem a := rfl

@[simp] theorem State.readMem2_mapSup (s : State) (a : Word) : (s.mapSup ρ g).readMem2 a = s.readMem2 a := rfl

theorem State.writeMem_mapSup (s : State) (a v : Word) :
    (s.mapSup ρ g).writeMem a v = mapNext (mapSup ρ g) (s.writeMem a v) := by
  show writeMemBy _ _ a v = mapNext _ (s.writeMemBy _ a v)
  simp only [writeMemBy, State.mapSup, State.withSupervisor]
  split
  · rfl
  · rfl
  · split
    · next hnext => exact if_pos hnext
    · next hnext => exact if_neg hnext

theorem State.writeMem2_mapSup (s : State) (a : Word) (d : Word64) :
    (s.mapSup ρ g).writeMem2 a d = mapNext (mapSup ρ g) (s.writeMem2 a d) := by
  simp only [State.writeMem2, State.writeMem_mapSup, andThen_mapNext, mapNext_andThen]

/-- In user mode the supervisor's instructions are refused, whatever they would do (R257). -/
theorem supervisorOnly_of_user {s : State} (hm : s.mode = .user) (r : Result State) :
    supervisorOnly s r = .refused .supervisorOnly := by
  simp [supervisorOnly, hm]

/-! ## Operations that commute with it in user mode, through the current bank and flags -/

variable {s : State} (hm : s.mode = .user)
include hm

theorem State.readReg_mapSup (i : Reg) : (s.mapSup ρ g).readReg i = s.readReg i := by
  simp [State.readReg, State.bank, State.mapSup, State.withSupervisor, hm]

theorem State.flags_mapSup : (s.mapSup ρ g).flags = s.flags := by
  simp [State.flags, State.mapSup, State.withSupervisor, hm]

theorem State.writeReg_mapSup (i : Reg) (v : Word) :
    (s.mapSup ρ g).writeReg i v = (s.writeReg i v).mapSup ρ g := by
  simp only [State.writeReg, State.mapSup, State.withSupervisor, hm]
  split <;> rfl

theorem State.setFlags_mapSup (fl : Flags) : (s.mapSup ρ g).setFlags fl = (s.setFlags fl).mapSup ρ g := by
  simp [State.setFlags, State.setFlagsOf, State.mapSup, State.withSupervisor, hm]

theorem State.srcValue_mapSup (y : Src) : (s.mapSup ρ g).srcValue y = s.srcValue y := by
  cases y with
  | reg r => exact readReg_mapSup ρ g hm r
  | lit v => rfl

theorem State.countValue_mapSup (y : Count) : (s.mapSup ρ g).countValue y = s.countValue y := by
  cases y with
  | reg r => exact congrArg Config.shiftCount (readReg_mapSup ρ g hm r)
  | lit n => rfl

theorem State.targetAddr_mapSup (x : Target) : (s.mapSup ρ g).targetAddr x = s.targetAddr x := by
  cases x with
  | reg r => exact readReg_mapSup ρ g hm r
  | rel v => rfl

theorem State.stWordNow_mapSup : (s.mapSup ρ g).stWordNow = s.stWordNow := by
  simp [State.stWordNow, State.flags_mapSup ρ g hm]

theorem State.writeBack_mapSup (fl : Flags) (z : Reg) (r : Word) :
    ((s.mapSup ρ g).setFlags fl).writeReg z r = ((s.setFlags fl).writeReg z r).mapSup ρ g := by
  rw [State.setFlags_mapSup ρ g hm, State.writeReg_mapSup ρ g (by simpa using hm)]

theorem State.putF_mapSup (j : FReg) (d : Word64) : (s.mapSup ρ g).putF j d = (s.putF j d).mapSup ρ g := by
  simp [State.putF, State.flags_mapSup ρ g hm, State.setFlags_mapSup ρ g (s := s.writeF j d) hm]

theorem State.putResult_mapSup (j : FReg) (r : Option Word64) :
    (s.mapSup ρ g).putResult j r = (s.putResult j r).mapSup ρ g := by
  cases r with
  | some d => exact putF_mapSup ρ g hm j d
  | none => exact putF_mapSup ρ g (s := s.drawNan.2) hm j s.drawNan.1

theorem State.push_mapSup (v : Word) : (s.mapSup ρ g).push v = mapNext (mapSup ρ g) (s.push v) := by
  simp only [State.push, State.readReg_mapSup ρ g hm, State.writeReg_mapSup ρ g hm, State.writeMem_mapSup]

theorem State.push2_mapSup (d : Word64) : (s.mapSup ρ g).push2 d = mapNext (mapSup ρ g) (s.push2 d) := by
  simp only [State.push2, State.readReg_mapSup ρ g hm, State.writeReg_mapSup ρ g hm, State.writeMem2_mapSup]

theorem State.pop_mapSup : (s.mapSup ρ g).pop = andThen s.pop fun p => .next (p.1, p.2.mapSup ρ g) := by
  simp only [State.pop, State.readReg_mapSup ρ g hm, State.writeReg_mapSup ρ g hm, State.readMem_mapSup, andThen_assoc,
    andThen_next]

theorem State.pop2_mapSup : (s.mapSup ρ g).pop2 = andThen s.pop2 fun p => .next (p.1, p.2.mapSup ρ g) := by
  simp only [State.pop2, State.readReg_mapSup ρ g hm, State.writeReg_mapSup ρ g hm, State.readMem2_mapSup, andThen_assoc,
    andThen_next]

theorem State.writeRegsDown_mapSup (l : List Word) (i : Reg) :
    (s.mapSup ρ g).writeRegsDown i l = (s.writeRegsDown i l).mapSup ρ g := by
  induction l generalizing s i with
  | nil => rfl
  | cons v rest ih =>
    rw [State.writeRegsDown, State.writeReg_mapSup ρ g hm]
    exact ih (by simpa using hm) _

theorem State.dataRegs_mapSup : (s.mapSup ρ g).dataRegs = s.dataRegs := by
  simp only [State.dataRegs, State.readReg_mapSup ρ g hm]

/-! ## The instructions by family -/

theorem int3_mapSup (f : Word → Word → Flags → Word × Flags) (x : Reg) (y : Src) (z : Reg) :
    int3 f x y z (s.mapSup ρ g) = mapNext (State.mapSup ρ g) (int3 f x y z s) := by
  simp only [int3, State.readReg_mapSup ρ g hm, State.srcValue_mapSup ρ g hm, State.flags_mapSup ρ g hm,
    State.writeBack_mapSup ρ g hm, mapNext_next]

theorem shiftBy_mapSup (op : Word → Nat → Bool → Alu) (x : Reg) (y : Count) :
    shiftBy op x y (s.mapSup ρ g) = mapNext (State.mapSup ρ g) (shiftBy op x y s) := by
  simp only [shiftBy, State.readReg_mapSup ρ g hm, State.countValue_mapSup ρ g hm, State.flags_mapSup ρ g hm,
    State.writeBack_mapSup ρ g hm, mapNext_next]

theorem replaceZNV_mapSup (op : Word → Word × Bool) (x : Reg) :
    replaceZNV op x (s.mapSup ρ g) = mapNext (State.mapSup ρ g) (replaceZNV op x s) := by
  simp only [replaceZNV, State.readReg_mapSup ρ g hm, State.flags_mapSup ρ g hm, State.writeBack_mapSup ρ g hm,
    mapNext_next]

theorem branchIf_mapSup (cond : Flags → Bool) (x : Target) :
    branchIf cond x (s.mapSup ρ g) = mapNext (State.mapSup ρ g) (branchIf cond x s) := by
  simp only [branchIf, State.flags_mapSup ρ g hm, State.targetAddr_mapSup ρ g hm, mapNext_next]
  split <;> rfl

theorem fp3_mapSup (num : FpNum) (op : FpNum → Word64 → Word64 → Option Word64) (f₁ f₂ h : FReg) :
    fp3 num op f₁ f₂ h (s.mapSup ρ g) = mapNext (State.mapSup ρ g) (fp3 num op f₁ f₂ h s) := by
  simp only [fp3, State.readF_mapSup, State.putResult_mapSup ρ g hm, mapNext_next]

theorem fp2_mapSup (num : FpNum) (op : FpNum → Word64 → Option Word64) (f₁ f₂ : FReg) :
    fp2 num op f₁ f₂ (s.mapSup ρ g) = mapNext (State.mapSup ρ g) (fp2 num op f₁ f₂ s) := by
  simp only [fp2, State.readF_mapSup, State.putResult_mapSup ρ g hm, mapNext_next]

/-- An instruction that only writes flags, which it computes from what user code can read. -/
theorem setFlags_next_mapSup {fl fl' : Flags} (h : fl' = fl) :
    (.next ((s.mapSup ρ g).setFlags fl') : Result State) = mapNext (State.mapSup ρ g) (.next (s.setFlags fl)) := by
  rw [h, State.setFlags_mapSup ρ g hm, mapNext_next]

/-- An instruction that writes a floating-point register and some flags. -/
theorem writeF_setFlags_mapSup (j : FReg) (d : Word64) (fl : Flags) :
    ((s.mapSup ρ g).writeF j d).setFlags fl = ((s.writeF j d).setFlags fl).mapSup ρ g :=
  State.setFlags_mapSup ρ g (s := s.writeF j d) hm fl

theorem floatToInt_mapSup (num : FpNum) (f : FReg) (y : Reg) :
    floatToInt num f y (s.mapSup ρ g) = mapNext (State.mapSup ρ g) (floatToInt num f y s) := by
  simp only [floatToInt, State.readF_mapSup, State.flags_mapSup ρ g hm, State.drawWord_mapSup,
    State.writeBack_mapSup ρ g hm, State.writeBack_mapSup ρ g (s := s.drawWord.2) hm]
  split <;> rfl

theorem execLd_mapSup (x y : Reg) : execLd x y (s.mapSup ρ g) = mapNext (State.mapSup ρ g) (execLd x y s) := by
  simp only [execLd, State.readReg_mapSup ρ g hm, State.flags_mapSup ρ g hm, State.readMem_mapSup, mapNext_andThen,
    State.writeBack_mapSup ρ g hm, mapNext_next]

theorem execFld_mapSup (x : Reg) (f : FReg) :
    execFld x f (s.mapSup ρ g) = mapNext (State.mapSup ρ g) (execFld x f s) := by
  simp only [execFld, State.readReg_mapSup ρ g hm, State.readMem2_mapSup, mapNext_andThen, State.putF_mapSup ρ g hm,
    mapNext_next]

theorem execFst_mapSup (x : Reg) (f : FReg) :
    execFst x f (s.mapSup ρ g) = mapNext (State.mapSup ρ g) (execFst x f s) := by
  simp only [execFst, State.readReg_mapSup ρ g hm, State.readF_mapSup, State.writeMem2_mapSup, andThen_mapNext,
    mapNext_andThen]
  refine andThen_congr fun u hu => ?_
  have hmu : u.mode = .user := (KeepsControl.writeMem2 hu).mode_eq.trans hm
  exact setFlags_next_mapSup ρ g hmu (by rw [State.flags_mapSup ρ g hmu])

theorem execPop_mapSup (x : Reg) : execPop x (s.mapSup ρ g) = mapNext (State.mapSup ρ g) (execPop x s) := by
  simp only [execPop, State.pop_mapSup ρ g hm, andThen_assoc, andThen_next, mapNext_andThen]
  refine andThen_congr fun p hp => ?_
  have hmp : p.2.mode = .user := (KeepsControl.pop hp).mode_eq.trans hm
  rw [State.flags_mapSup ρ g hmp, State.writeBack_mapSup ρ g hmp, mapNext_next]

theorem execPops_mapSup : execPops (s.mapSup ρ g) = mapNext (State.mapSup ρ g) (execPops s) := by
  simp only [execPops, State.pop_mapSup ρ g hm, andThen_assoc, andThen_next, mapNext_andThen]
  refine andThen_congr fun p hp => ?_
  exact setFlags_next_mapSup ρ g ((KeepsControl.pop hp).mode_eq.trans hm) rfl

theorem execFpop_mapSup (f : FReg) : execFpop f (s.mapSup ρ g) = mapNext (State.mapSup ρ g) (execFpop f s) := by
  simp only [execFpop, State.pop2_mapSup ρ g hm, andThen_assoc, andThen_next, mapNext_andThen]
  refine andThen_congr fun p hp => ?_
  rw [State.putF_mapSup ρ g ((KeepsControl.pop2 hp).mode_eq.trans hm), mapNext_next]

theorem supervisorOnly_mapSup (r r' : Result State) :
    supervisorOnly (s.mapSup ρ g) r' = mapNext (State.mapSup ρ g) (supervisorOnly s r) := by
  rw [supervisorOnly_of_user hm, supervisorOnly_of_user (by simpa using hm)]
  rfl

/-- Every instruction of user mode but `call`, `ret` and `int` commutes with every replacement of the supervisor's
registers and flags. -/
theorem exec_mapSup {i : Instr} (hcall : ∀ x, i ≠ .call x) (hret : i ≠ .ret) (hint : ∀ n, i ≠ .int n) :
    exec i (s.mapSup ρ g) = mapNext (State.mapSup ρ g) (exec i s) := by
  cases i with
  | call x => exact absurd rfl (hcall x)
  | ret => exact absurd rfl hret
  | int n => exact absurd rfl (hint n)
  | and x y z | or x y z | xor x y z | add x y z | sub x y z | addc x y z | subc x y z | mullo x y z | mulhi x y z
  | mulslo x y z | mulshi x y z | div x y z | divs x y z | mod x y z | mods x y z =>
    dsimp only [exec]
    exact int3_mapSup ρ g hm _ x y z
  | asl x y | asr x y | shl x y | shr x y | rol x y | ror x y =>
    dsimp only [exec]
    exact shiftBy_mapSup ρ g hm _ x y
  | neg x | inc x | dec x =>
    dsimp only [exec]
    exact replaceZNV_mapSup ρ g hm _ x
  | beq x | bne x | bgt x | blt x | bge x | bpl x | bmi x | bvc x | bvs x | bcc x | bcs x | bfeq x | bfne x | bfgt x
  | bflt x | bfge x | bfpl x | bfmi x | bfinf x | bfninf x | bfnnf x | bfnnnf x | bfnan x | bfnnan x | bfdn x
  | bfndn x =>
    dsimp only [exec]
    exact branchIf_mapSup ρ g hm _ x
  | fadd f₁ f₂ h | fsub f₁ f₂ h | fmul f₁ f₂ h | fdiv f₁ f₂ h | fatan f₁ f₂ h =>
    dsimp only [exec]
    exact fp3_mapSup ρ g hm _ _ f₁ f₂ h
  | fsqrt f₁ f₂ | fsin f₁ f₂ | fcos f₁ f₂ | flog f₁ f₂ | fexp f₁ f₂ =>
    dsimp only [exec]
    exact fp2_mapSup ρ g hm _ _ f₁ f₂
  | clrz | clrn | clrc | clrv | setz | setn | setc | setv =>
    exact setFlags_next_mapSup ρ g hm (by rw [State.flags_mapSup ρ g hm])
  | cmp x y | bit x y =>
    exact setFlags_next_mapSup ρ g hm (by simp only [State.flags_mapSup ρ g hm, State.readReg_mapSup ρ g hm])
  | fcmp f₁ f₂ => exact setFlags_next_mapSup ρ g hm (by rw [State.flags_mapSup ρ g hm]; rfl)
  | nor x =>
    simp only [exec, execNor, State.readReg_mapSup ρ g hm, State.flags_mapSup ρ g hm, State.writeBack_mapSup ρ g hm,
      mapNext_next]
  | cp x y =>
    simp only [exec, execCp, State.readReg_mapSup ρ g hm, State.writeReg_mapSup ρ g hm, mapNext_next]
  | clr x | set x => exact congrArg Host.Outcome.next (State.writeReg_mapSup ρ g hm x _)
  | ld x y => exact execLd_mapSup ρ g hm x y
  | st x y =>
    simp only [exec, execSt, State.readReg_mapSup ρ g hm, State.writeMem_mapSup]
  | push x =>
    simp only [exec, execPush, State.readReg_mapSup ρ g hm, State.push_mapSup ρ g hm]
  | pushs =>
    simp only [exec, execPushs, State.stWordNow_mapSup ρ g hm, State.push_mapSup ρ g hm]
  | pop x => exact execPop_mapSup ρ g hm x
  | pops => exact execPops_mapSup ρ g hm
  | fpush f => exact State.push2_mapSup ρ g hm (s.readF f)
  | fpop f => exact execFpop_mapSup ρ g hm f
  | fld x f => exact execFld_mapSup ρ g hm x f
  | fst x f => exact execFst_mapSup ρ g hm x f
  | fcp f₁ f₂ => exact congrArg Host.Outcome.next (State.putF_mapSup ρ g hm f₂ _)
  | fneg f | fabs f => exact congrArg Host.Outcome.next (State.putF_mapSup ρ g hm f _)
  | fpi f | fe f => rfl
  | fclr f =>
    simp only [exec, execFclr, State.flags_mapSup ρ g hm, writeF_setFlags_mapSup ρ g hm, mapNext_next]
  | fitof x f =>
    simp only [exec, execFitof, intToFloat, State.readReg_mapSup ρ g hm, State.flags_mapSup ρ g hm,
      writeF_setFlags_mapSup ρ g hm, mapNext_next]
  | fftoi f y => exact floatToInt_mapSup ρ g hm _ f y
  | jmp x =>
    simp only [exec, execJmp, State.targetAddr_mapSup ρ g hm, State.setPc_mapSup, mapNext_next]
  | rts =>
    simp only [exec, execRts, State.readReg_mapSup ρ g hm, State.setPc_mapSup, mapNext_next]
  | jsr =>
    simp only [exec, execJsr, State.readReg_mapSup ρ g hm, State.pcValue_eq, State.mapSup_pc, State.writeReg_mapSup ρ g hm,
      State.setPc_mapSup, mapNext_next]
  | rti =>
    simp only [exec, execRti, State.returnToUser, State.readReg_mapSup ρ g hm, mapNext_next]
    rfl
  | stop | nop | simdNop => rfl
  | pushu | popu | user => exact supervisorOnly_mapSup ρ g hm _ _

end

/-! ## `call` and `ret`, which have SSP -/

/-- A change of the supervisor bank that leaves SSP as it is, to be read and written as before. -/
structure LeavesSsp (ρ : Vector Word 31 → Vector Word 31) : Prop where
  get : ∀ xs, (ρ xs)[30] = xs[30]
  set : ∀ xs v, ρ (xs.set 30 v) = (ρ xs).set 30 v

section
variable {ρ : Vector Word 31 → Vector Word 31} (hρ : LeavesSsp ρ) (g : Flags)
include hρ

theorem State.pushS_mapSup (s : State) (v : Word) :
    (s.mapSup ρ g).pushS v = mapNext (mapSup ρ g) (s.pushS v) := by
  have hssp : (s.mapSup ρ g).ssp = s.ssp := hρ.get s.xs
  have hset : (s.mapSup ρ g).setSsp (spPushed s.ssp 1) = (s.setSsp (spPushed s.ssp 1)).mapSup ρ g := by
    simp only [State.setSsp, State.mapSup, State.withSupervisor, hρ.set]
  simp only [State.pushS, hssp, hset, State.writeMem_mapSup]

theorem State.popS_mapSup (s : State) :
    (s.mapSup ρ g).popS = andThen s.popS fun p => .next (p.1, p.2.mapSup ρ g) := by
  have hssp : (s.mapSup ρ g).ssp = s.ssp := hρ.get s.xs
  have hset : (s.mapSup ρ g).setSsp (spPopped s.ssp 1) = (s.setSsp (spPopped s.ssp 1)).mapSup ρ g := by
    simp only [State.setSsp, State.mapSup, State.withSupervisor, hρ.set]
  simp only [State.popS, hssp, hset, State.readMem_mapSup, andThen_assoc, andThen_next]

theorem State.pushAllS_mapSup (l : List Word) (s : State) :
    (s.mapSup ρ g).pushAllS l = mapNext (mapSup ρ g) (s.pushAllS l) := by
  induction l generalizing s with
  | nil => rfl
  | cons v rest ih => simp only [State.pushAllS, State.pushS_mapSup hρ, andThen_mapNext, mapNext_andThen, ih]

theorem State.popAllS_mapSup (n : Nat) (s : State) :
    (s.mapSup ρ g).popAllS n = andThen (s.popAllS n) fun q => .next (q.1, q.2.mapSup ρ g) := by
  induction n generalizing s with
  | zero => rfl
  | succ n ih => simp only [State.popAllS, State.popS_mapSup hρ, andThen_assoc, andThen_next, ih]

theorem execCall_mapSup {s : State} (hm : s.mode = .user) (x : Target) :
    execCall x (s.mapSup ρ g) = mapNext (State.mapSup ρ g) (execCall x s) := by
  simp only [execCall, State.dataRegs_mapSup ρ g hm, State.stWordNow_mapSup ρ g hm, State.targetAddr_mapSup ρ g hm,
    State.pushAllS_mapSup hρ, andThen_mapNext, mapNext_andThen]
  refine andThen_congr fun u hu => ?_
  have hmu : u.mode = .user := (KeepsControl.pushAllS hu).mode_eq.trans hm
  have hmw : (u.writeRegsDown 23 (List.replicate 8 0)).mode = .user :=
    (KeepsControl.writeRegsDown _ u 23).mode_eq.trans hmu
  rw [State.writeRegsDown_mapSup ρ g hmu, State.setFlags_mapSup ρ g hmw, State.pcValue_eq, State.mapSup_pc,
    State.writeReg_mapSup ρ g (by simpa using hmw), State.setPc_mapSup, State.pcValue_eq, mapNext_next]

theorem execRet_mapSup {s : State} (hm : s.mode = .user) :
    execRet (s.mapSup ρ g) = mapNext (State.mapSup ρ g) (execRet s) := by
  simp only [execRet, State.popAllS_mapSup hρ, andThen_assoc, andThen_next, mapNext_andThen]
  refine andThen_congr fun p hp => ?_
  have hmp : p.2.mode = .user := (KeepsControl.popAllS hp).mode_eq.trans hm
  have hmw : (p.2.writeRegsDown 23 p.1.tail).mode = .user :=
    (KeepsControl.writeRegsDown _ p.2 23).mode_eq.trans hmp
  rw [State.writeRegsDown_mapSup ρ g hmp, State.setFlags_mapSup ρ g hmw,
    State.readReg_mapSup ρ g (by simpa using hmw), State.setPc_mapSup, mapNext_next]

end

end Sys2Proof.Machine

/-! The statements of 10_state.md about user code and the supervisor's registers and flags. -/

namespace Sys2Proof.Machine

/-! ## What user code writes -/

/-- Putting back the supervisor's own registers and flags changes nothing. -/
theorem State.mapSup_self (s : State) : s.mapSup (fun _ => s.xs) s.sts = s := rfl

/-- No instruction of user mode but `call`, `ret` and `int` writes the supervisor's registers or flags. -/
theorem exec_keeps_supervisor_of_user {i : Instr} {s t : State} (hm : s.mode = .user) (hcall : ∀ x, i ≠ .call x)
    (hret : i ≠ .ret) (hint : ∀ n, i ≠ .int n) (h : exec i s = .next t) : t.xs = s.xs ∧ t.sts = s.sts := by
  have hc := exec_mapSup (fun _ => s.xs) s.sts hm hcall hret hint
  rw [State.mapSup_self, h, mapNext_next, Host.Outcome.next.injEq] at hc
  exact ⟨(congrArg State.xs hc :), (congrArg State.sts hc :)⟩

theorem State.setFlags_sts_of_user {s : State} (hm : s.mode = .user) (fl : Flags) : (s.setFlags fl).sts = s.sts := by
  simp [State.setFlags, State.setFlagsOf, hm]

theorem State.writeRegsDown_xs_of_user {s : State} (hm : s.mode = .user) (l : List Word) (i : Reg) :
    (s.writeRegsDown i l).xs = s.xs := by
  induction l generalizing s i with
  | nil => rfl
  | cons v rest ih => exact (ih (by simpa using hm) _).trans (s.writeReg_xs_of_user i v hm)

@[simp] theorem State.writeRegsDown_sts (s : State) (l : List Word) (i : Reg) : (s.writeRegsDown i l).sts = s.sts := by
  induction l generalizing s i with
  | nil => rfl
  | cons v rest ih => exact (ih _ _).trans (s.writeReg_sts i v)

/-- `call` in user mode moves SSP by its nine words and leaves the rest of the supervisor's registers and flags (R180). -/
theorem execCall_supervisor_of_user {x : Target} {s t : State} (hm : s.mode = .user) (h : execCall x s = .next t) :
    t.xs = s.xs.set 30 (s.xs[30] - 9) ∧ t.sts = s.sts := by
  obtain ⟨u, hu, ⟨⟩⟩ := andThen_eq_next.1 h
  obtain ⟨m, st, hshape, -⟩ := State.pushAllS_shape hu
  have hmu : u.mode = .user := (KeepsControl.pushAllS hu).mode_eq.trans hm
  have hmw : (u.writeRegsDown 23 (List.replicate 8 0)).mode = .user :=
    (KeepsControl.writeRegsDown _ u 23).mode_eq.trans hmu
  have hmf : ((u.writeRegsDown 23 (List.replicate 8 0)).setFlags Flags.clear).mode = .user := by simpa using hmw
  constructor
  · show (State.writeReg _ _ _).xs = _
    rw [State.writeReg_xs_of_user _ _ _ hmf, State.setFlags_xs, State.writeRegsDown_xs_of_user hmu, hshape]
    rfl
  · show (State.writeReg _ _ _).sts = _
    rw [State.writeReg_sts, State.setFlags_sts_of_user hmw, State.writeRegsDown_sts, hshape]
    rfl

/-- `ret` in user mode moves SSP back by nine words and leaves the rest of the supervisor's registers and flags (R262). -/
theorem execRet_supervisor_of_user {s t : State} (hm : s.mode = .user) (h : execRet s = .next t) :
    t.xs = s.xs.set 30 (s.xs[30] + 9) ∧ t.sts = s.sts := by
  obtain ⟨⟨l, u⟩, hu, ⟨⟩⟩ := andThen_eq_next.1 h
  obtain ⟨hshape, -⟩ := State.popAllS_shape hu
  have hmu : u.mode = .user := (KeepsControl.popAllS hu).mode_eq.trans hm
  have hmw : (u.writeRegsDown 23 l.tail).mode = .user := (KeepsControl.writeRegsDown _ u 23).mode_eq.trans hmu
  constructor
  · show (State.setFlags _ _).xs = _
    rw [State.setFlags_xs, State.writeRegsDown_xs_of_user hmu, hshape]
    rfl
  · show (State.setFlags _ _).sts = _
    rw [State.setFlags_sts_of_user hmw, State.writeRegsDown_sts, hshape]
    rfl

/-- Of a bank in which SSP alone is written, only SSP can differ. -/
theorem getElem_eq_or_of_eq_set_ssp {xs ys : Vector Word 31} {v : Word} (h : ys = xs.set 30 v) {k : Nat} (hk : k < 31) :
    ys[k] = xs[k] ∨ k = 30 ∧ ys[k] = v := by
  subst h
  by_cases h30 : k = 30
  · subst h30
    exact .inr ⟨rfl, by simp⟩
  · exact .inl (by simp [Ne.symm h30])

/-- `int` in user mode copies eight user registers to the supervisor bank and leaves its flags (R264). -/
theorem execInt_supervisor_of_user {n : Nat} {s t : State} (hm : s.mode = .user) (h : execInt n s = .next t) :
    t.xs = copyLow s.xu s.xs ∧ t.sts = s.sts := by
  rw [execInt_eq, Host.Outcome.next.injEq] at h
  subst h
  simp [State.withSupervisor, State.bank, hm]

/-! ## What user code reads -/

/-- Where the state with `b` and `fb` commutes with a replacement that turns `b` into `a`, the two states give the same,
but for the supervisor's registers and flags. -/
theorem mapNext_withSupervisor_eq_of_mapSup {i : Instr} {s : State} {a b : Vector Word 31} {fa fb : Flags}
    {ρ : Vector Word 31 → Vector Word 31} (hρ : ρ b = a)
    (h : exec i ((s.withSupervisor b fb).mapSup ρ fa) = mapNext (State.mapSup ρ fa) (exec i (s.withSupervisor b fb))) :
    mapNext (fun t => t.withSupervisor a fa) (exec i (s.withSupervisor a fa)) =
      mapNext (fun t => t.withSupervisor a fa) (exec i (s.withSupervisor b fb)) := by
  have hs : (s.withSupervisor b fb).mapSup ρ fa = s.withSupervisor a fa := by subst hρ; rfl
  rw [← hs, h]
  cases exec i (s.withSupervisor b fb) <;> rfl

/-- To replace all of the supervisor bank but SSP leaves SSP. -/
theorem leavesSsp_set_ssp (a : Vector Word 31) : LeavesSsp fun xs => a.set 30 xs[30] where
  get xs := by simp
  set xs v := by simp

/-- The supervisor bank stays out of the way of a request that joins the buffer. -/
theorem State.withSupervisor_enqueue (s : State) (xs : Vector Word 31) (fl : Flags) (n : BitVec 8) :
    (s.withSupervisor xs fl).enqueue n = (s.enqueue n).withSupervisor xs fl := by
  by_cases h : s.ibuf.length < Config.ibufDepth <;> simp [State.enqueue, State.withSupervisor, h]

end Sys2Proof.Machine

namespace Sys2Proof.Proofs
open Sys2Proof.Machine

/-- Settles O50: `call` and `ret` commute with the replacements that leave SSP, `int` writes what it does not read, and
every other instruction commutes with every replacement. -/
theorem userCodeReadsNoSupervisorRegisterButSsp : Obligations.UserCodeReadsNoSupervisorRegisterButSsp := by
  intro i s a b fa fb hm hssp
  have hm' : (s.withSupervisor b fb).mode = .user := hm
  have hput : a[30] = b[30] → a.set 30 b[30] = a := fun h => by simp [← h]
  by_cases hcall : ∃ x, i = .call x
  · obtain ⟨x, rfl⟩ := hcall
    exact mapNext_withSupervisor_eq_of_mapSup (hput (hssp (.inl ⟨x, rfl⟩)))
      (execCall_mapSup (leavesSsp_set_ssp a) fa hm' x)
  by_cases hret : i = .ret
  · subst hret
    exact mapNext_withSupervisor_eq_of_mapSup (hput (hssp (.inr rfl))) (execRet_mapSup (leavesSsp_set_ssp a) fa hm')
  by_cases hint : ∃ n, i = .int n
  · obtain ⟨n, rfl⟩ := hint
    show mapNext _ (execInt n _) = mapNext _ (execInt n _)
    simp only [execInt_eq, State.withSupervisor_enqueue, mapNext_next]
    rfl
  · exact mapNext_withSupervisor_eq_of_mapSup (ρ := fun _ => a) rfl
      (exec_mapSup _ fa hm' (not_exists.1 hcall) hret (not_exists.1 hint))

/-- Settles O49: by what `call`, `ret` and `int` write, and because no other instruction writes there. -/
theorem userCodeWritesNoSupervisorStateButByIntAndCall :
    Obligations.UserCodeWritesNoSupervisorStateButByIntAndCall := by
  intro i s t hm h
  refine ⟨exec_mode_of_user hm h, ?_⟩
  by_cases hcall : ∃ x, i = .call x
  · obtain ⟨x, rfl⟩ := hcall
    obtain ⟨hxs, hsts⟩ := execCall_supervisor_of_user hm h
    refine ⟨hsts, fun k hk => ?_⟩
    obtain hk | ⟨rfl, hk⟩ := getElem_eq_or_of_eq_set_ssp hxs hk
    · exact .inl hk
    · exact .inr (.inr (.inl ⟨⟨x, rfl⟩, rfl, hk⟩))
  by_cases hret : i = .ret
  · subst hret
    obtain ⟨hxs, hsts⟩ := execRet_supervisor_of_user hm h
    refine ⟨hsts, fun k hk => ?_⟩
    obtain hk | ⟨rfl, hk⟩ := getElem_eq_or_of_eq_set_ssp hxs hk
    · exact .inl hk
    · exact .inr (.inr (.inr ⟨rfl, rfl, hk⟩))
  by_cases hint : ∃ n, i = .int n
  · obtain ⟨n, rfl⟩ := hint
    obtain ⟨hxs, hsts⟩ := execInt_supervisor_of_user hm h
    refine ⟨hsts, fun k hk => ?_⟩
    by_cases h8 : k < 8
    · exact .inr (.inl ⟨⟨n, rfl⟩, h8, by simp [hxs, getElem_copyLow, h8]⟩)
    · exact .inl (by simp [hxs, getElem_copyLow, h8])
  · obtain ⟨hxs, hsts⟩ := exec_keeps_supervisor_of_user hm (not_exists.1 hcall) hret (not_exists.1 hint) h
    exact ⟨hsts, fun k hk => .inl (by rw [hxs])⟩

end Sys2Proof.Proofs

/-! Memory: an access by the kind of its address, the bytes of a written word, and what the record of stores makes of
the fetches after it. -/

namespace Sys2Proof.Machine

/-! ## An access by the kind of its address (R59, R60) -/

theorem State.readMem_of_absent {s : State} {a : Word} (h : kindAt s.memMap a = none) :
    s.readMem a = .fault .absentAddress := by
  simp [State.readMem, State.readMemBy, h]

theorem State.readMem_of_device {s : State} {a : Word} (h : kindAt s.memMap a = some .device) :
    s.readMem a = .refused .deviceAccess := by
  simp [State.readMem, State.readMemBy, h]

theorem State.readMem_of_unwritten {s : State} {a : Word} (h : kindAt s.memMap a = some .memory)
    (hw : s.mem.readWord a = none) : s.readMem a = .fault .unwrittenMemory := by
  simp [State.readMem, State.readMemBy, h, hw]

/-- A read depends on nothing but the map and the word at its address. -/
theorem State.readMem_congr {s t : State} {a : Word} (hmap : t.memMap = s.memMap)
    (hword : t.mem.readWord a = s.mem.readWord a) : t.readMem a = s.readMem a := by
  simp only [State.readMem, State.readMemBy, translate_eq, hmap, hword]

theorem State.writeMem_of_absent {s : State} {a v : Word} (h : kindAt s.memMap a = none) :
    s.writeMem a v = .fault .absentAddress := by
  simp [State.writeMem, State.writeMemBy, h]

theorem State.writeMem_of_device {s : State} {a v : Word} (h : kindAt s.memMap a = some .device) :
    s.writeMem a v = .refused .deviceAccess := by
  simp [State.writeMem, State.writeMemBy, h]

/-- A store to one of the next two words is refused (R67). -/
theorem State.writeMem_of_next_words {s : State} {a v : Word} (h : kindAt s.memMap a = some .memory)
    (hnext : a = s.pc ∨ a = s.pc + 1) : s.writeMem a v = .refused .storeIntoNextWords := by
  simp only [State.writeMem, State.writeMemBy, translate_eq, h, if_pos hnext]

theorem exec_st (x y : Reg) (s : State) : exec (.st x y) s = s.writeMem (s.readReg y) (s.readReg x) := rfl

/-! ## The bytes of a written word -/

/-- Every byte after a word is written: the four bytes at its address are the word's, and all others are as before. -/
theorem Memory.readByte_writeWord (m : Memory) (a v : Word) (k : Nat) :
    (m.writeWord a v).readByte k = if k / 4 = a.toNat then some (byteOf v (k % 4)) else m.readByte k := by
  split
  · next h =>
    have hk : k = byteKey a (k % 4) := by simp only [byteKey]; omega
    rw [hk, Memory.readByte_writeWord_byte m a v (Nat.mod_lt k (by decide)), ← hk]
  · next h => exact Memory.readByte_writeWord_other m a v (by simp only [byteKey]; omega)

/-- Two words at different addresses can be written in either order: no byte belongs to both. -/
theorem Memory.readByte_writeWord_comm (m : Memory) {a b : Word} (v w : Word) (h : a ≠ b) (k : Nat) :
    ((m.writeWord a v).writeWord b w).readByte k = ((m.writeWord b w).writeWord a v).readByte k := by
  have hne : a.toNat ≠ b.toNat := fun e => h (BitVec.eq_of_toNat_eq e)
  simp only [Memory.readByte_writeWord]
  by_cases ha : k / 4 = a.toNat
  · have hb : k / 4 ≠ b.toNat := ha ▸ hne
    simp only [if_pos ha, if_neg hb]
  · simp only [if_neg ha]

/-! ## The record of stores along a run (R67) -/

theorem State.fetch_of_stale {s : State} (h : s.pc ∈ s.storesLast ∨ s.pc ∈ s.storesPrev) :
    s.fetch = .refused .staleFetch := if_pos h

/-- A step that would execute a word that one of the last two instructions stored is refused. -/
theorem step_of_stale {s : State} (he : Executes s) (h : s.pc ∈ s.storesLast ∨ s.pc ∈ s.storesPrev) :
    step s = .refused .staleFetch := by
  obtain ⟨hw, hp⟩ := executes_iff.1 he
  have hf : s.arriveBetween.wake.fetch = .refused .staleFetch := State.fetch_of_stale (by simpa using h)
  simp [step, hw, hp, runInstr, hf, andThen]

/-- A step that executes and completes is an instruction that was fetched, decoded and run (R40, clause 4). -/
theorem exec_of_step {s t : State} (he : Executes s) (h : step s = .next t) :
    ∃ w i, Fetches s w ∧ decode w = .ok i ∧ exec i s.acting = .next t := by
  obtain ⟨hw, hp⟩ := executes_iff.1 he
  obtain ⟨hw', -⟩ | ⟨n, -, hp', -⟩ | ⟨w, i, -, -, hf, hd, hx⟩ := step_eq_next h
  · rw [hw] at hw'; cases hw'
  · rw [hp] at hp'; cases hp'
  · exact ⟨w, i, fetches_arriveBetween_wake.1 (State.fetch_eq_next.1 hf), hd, State.acting_eq s ▸ hx⟩

/-- No instruction changes the record of the stores of the instruction before it. -/
theorem exec_storesPrev {i : Instr} {s t : State} (h : exec i s = .next t) : t.storesPrev = s.storesPrev := by
  obtain hk | ⟨-, rfl⟩ | ⟨n, -, rfl⟩ | ⟨-, rfl⟩ := exec_effect h
  · obtain ⟨-, -, -, -, hprev⟩ := hk.rest
    exact hprev
  · exact s.returnToUser_storesPrev
  · exact State.enqueue_storesPrev _ _
  · rfl

@[simp] theorem State.acting_storesPrev (s : State) : s.acting.storesPrev = s.storesLast := by simp [State.acting]

/-- After an executed instruction, the stores of the one before it are on record as the older ones. -/
theorem step_storesPrev {s t : State} (he : Executes s) (h : step s = .next t) : t.storesPrev = s.storesLast := by
  obtain ⟨w, i, -, -, hx⟩ := exec_of_step he h
  exact (exec_storesPrev hx).trans s.acting_storesPrev

end Sys2Proof.Machine

namespace Sys2Proof.Proofs
open Sys2Proof.Machine

/-- Settles O42: by the kind of the address. -/
theorem accessOutsideWrittenMemoryStops : Obligations.AccessOutsideWrittenMemoryStops := fun _ _ _ =>
  ⟨fun h => ⟨State.readMem_of_absent h, State.writeMem_of_absent h⟩,
    fun h => ⟨State.readMem_of_device h, State.writeMem_of_device h⟩, State.readMem_of_unwritten⟩

/-- Settles O56: a completed store is a written word, and the laws of written words do the rest. -/
theorem memoryReadsBackTheLastWrite : Obligations.MemoryReadsBackTheLastWrite := by
  refine ⟨fun s t a v h => ?_, fun m _ _ v w hab => m.readByte_writeWord_comm v w hab⟩
  obtain ⟨hstorable, rfl⟩ := State.writeMem_eq_next.1 h
  exact ⟨State.readMem_eq_next.2 ⟨hstorable.1, s.mem.readWord_writeWord_same a v⟩,
    fun b hb => State.readMem_congr rfl (s.mem.readWord_writeWord_other v hb), rfl⟩

/-- Settles O59: a store of the instruction before the next step stands in `storesLast`, and one instruction later in
`storesPrev`; the fetch looks at both. -/
theorem storesIntoUpcomingInstructionsAreRefused : Obligations.StoresIntoUpcomingInstructionsAreRefused := by
  refine ⟨fun _ _ _ => State.writeMem_of_next_words, fun x y s h hnext => ?_, fun s t _ _ he hstore => ?_,
    fun s t u _ _ he hstep he' hstore => ?_, fun _ _ => State.fetch_eq_next.2⟩
  · rw [exec_st]
    exact State.writeMem_of_next_words h hnext
  · exact step_of_stale he (.inl hstore)
  · exact step_of_stale he' (.inr (step_storesPrev he hstep ▸ hstore))

end Sys2Proof.Proofs

/-! The decoder: its fields and operands, each format's op map as a table, and the format that the leading bits choose
(R71 to R90). -/

namespace Sys2Proof.Laws
open Sys2Proof.Machine

/-! ## Fields and operands -/

/-- The leading bits of a word, by which the format is chosen, follow from its top nine (R71). -/
theorem bits_leading (w : Word) :
    bits w 31 23 < 512 ∧ bits w 31 31 = bits w 31 23 / 256 ∧ bits w 31 30 = bits w 31 23 / 128 ∧
      bits w 31 29 = bits w 31 23 / 64 ∧ bits w 31 28 = bits w 31 23 / 32 ∧ bits w 31 27 = bits w 31 23 / 16 ∧
      bits w 31 26 = bits w 31 23 / 8 ∧ bits w 31 25 = bits w 31 23 / 4 ∧ bits w 31 24 = bits w 31 23 / 2 := by
  have := w.isLt
  simp only [bits]
  omega

theorem bits_one_bit (w : Word) (k : Nat) : bits w k k = 0 ∨ bits w k k = 1 := by
  have : k + 1 - k = 1 := by omega
  simp only [bits, this]
  omega

/-- A field follows from its bits. -/
theorem bits_congr {w w' : Word} {hi lo : Nat} (h : ∀ i, lo ≤ i → i ≤ hi → w'.getLsbD i = w.getLsbD i) :
    bits w' hi lo = bits w hi lo := by
  refine Nat.eq_of_testBit_eq fun j => ?_
  simp only [bits, Nat.testBit_mod_two_pow, Nat.testBit_div_two_pow]
  by_cases hj : j < hi + 1 - lo
  · simp only [hj, decide_true, Bool.true_and]
    exact h (j + lo) (by omega) (by omega)
  · simp [hj]

theorem regOf_regNumber (r : Reg) : regOf (regNumber r) = r := by simp

@[simp] theorem fregOf_val (f : FReg) : fregOf f.val = f := by simp [fregOf]

/-- A two's-complement field gives back the number it was made from, if that is in range. -/
theorem signedOf_fieldOf {n : Nat} {v : Int} (hn : 0 < n) (hlo : -2 ^ (n - 1) ≤ v) (hhi : v < 2 ^ (n - 1)) :
    signedOf n (fieldOf n v) = v := by
  obtain ⟨m, rfl⟩ : ∃ m, n = m + 1 := ⟨n - 1, by omega⟩
  have hp : (2 : Int) ^ (m + 1) = 2 * 2 ^ m := by ring
  simp only [Nat.add_sub_cancel] at hlo hhi
  simp only [signedOf, fieldOf, Nat.add_sub_cancel]
  have hc : ((v % 2 ^ (m + 1)).toNat : Int) = v % 2 ^ (m + 1) := Int.toNat_of_nonneg (Int.emod_nonneg _ (by positivity))
  have hlt : (v % 2 ^ (m + 1)).toNat < 2 ^ m ↔ v % 2 ^ (m + 1) < 2 ^ m := by
    rw [← hc]; exact_mod_cast Iff.rfl
  rw [hc]
  by_cases hv : 0 ≤ v
  · rw [Int.emod_eq_of_lt hv (by omega)] at hlt ⊢
    rw [if_pos (hlt.2 hhi)]
  · have he : v % 2 ^ (m + 1) = v + 2 ^ (m + 1) := by
      rw [← Int.add_emod_right, Int.emod_eq_of_lt (by omega) (by omega)]
    rw [he] at hlt ⊢
    rw [if_neg (fun h => by have := hlt.1 h; omega)]
    omega

/-- A two's-complement field holds a number in range. -/
theorem signedOf_range {n k : Nat} (hn : 0 < n) (hk : k < 2 ^ n) :
    -2 ^ (n - 1) ≤ signedOf n k ∧ signedOf n k < 2 ^ (n - 1) := by
  obtain ⟨m, rfl⟩ : ∃ m, n = m + 1 := ⟨n - 1, by omega⟩
  have hk' : (k : Int) < 2 ^ (m + 1) := by exact_mod_cast hk
  have hp : (2 : Int) ^ (m + 1) = 2 * 2 ^ m := by ring
  simp only [signedOf, Nat.add_sub_cancel]
  split
  · next h =>
    have : (k : Int) < 2 ^ m := by exact_mod_cast h
    omega
  · next h =>
    have : (2 : Int) ^ m ≤ k := by exact_mod_cast Nat.le_of_not_lt h
    omega

theorem int3Y_wellFormed (w : Word) : (int3Y w).wellFormed = true := by
  unfold int3Y
  split
  · rfl
  · exact decide_eq_true (signedOf_range (n := 16) (by decide) (Nat.mod_lt _ (by decide)))

theorem int2Count_wellFormed (w : Word) : (int2Count w).wellFormed = true := by
  unfold int2Count
  split
  · rfl
  · exact decide_eq_true (Nat.mod_lt _ (by decide))

theorem int1Target_wellFormed (w : Word) : (int1Target w).wellFormed = true := by
  unfold int1Target
  split
  · rfl
  · exact decide_eq_true (signedOf_range (n := 22) (by decide) (Nat.mod_lt _ (by decide)))

/-! ## The op map of each format as a table (R84 to R90) -/

/-- What a format with the op map `l` makes of the op number `op`: `f` of the entry, or rejection (R92). -/
def ofTable {α : Type} (l : List α) (op : Nat) (f : α → Except DecodeError Instr) : Except DecodeError Instr :=
  l[op]?.elim (.error .reservedEncoding) f

theorem ofTable_of_lt {α : Type} {l : List α} {op : Nat} {f : α → Except DecodeError Instr} (h : op < l.length) :
    ofTable l op f = f l[op] := by
  simp [ofTable, h]

theorem ofTable_of_ge {α : Type} {l : List α} {op : Nat} {f : α → Except DecodeError Instr} (h : l.length ≤ op) :
    ofTable l op f = .error .reservedEncoding := by
  simp [ofTable, h]

theorem ofTable_eq_ok {α : Type} {l : List α} {op : Nat} {f : α → Except DecodeError Instr} {i : Instr}
    (h : ofTable l op f = .ok i) : ∃ a ∈ l, f a = .ok i := by
  by_cases hop : op < l.length
  · exact ⟨l[op], List.getElem_mem hop, ofTable_of_lt hop ▸ h⟩
  · rw [ofTable_of_ge (Nat.le_of_not_lt hop)] at h
    cases h

/-- Where every entry is an instruction, only the numbers after the table are rejected. -/
theorem ofTable_ok_eq_error {α : Type} {l : List α} {op : Nat} {f : α → Instr} {e : DecodeError} :
    ofTable l op (fun a => .ok (f a)) = .error e ↔ e = .reservedEncoding ∧ l.length ≤ op := by
  by_cases hop : op < l.length
  · simp [ofTable_of_lt hop, hop]
  · simp [ofTable_of_ge (Nat.le_of_not_lt hop), Nat.le_of_not_lt hop, eq_comm]

/-- INT3 (R84). -/
def int3Table : List (Reg → Src → Reg → Instr) :=
  [.and, .or, .xor, .add, .sub, .addc, .subc, .mullo, .mulhi, .mulslo, .mulshi, .div, .divs, .mod, .mods]

/-- The operations 0 to 4 of INT2, which have the register form only (R85, R93). -/
def int2RegTable : List (Reg → Reg → Instr) := [.ld, .st, .cp, .cmp, .bit]

/-- The operations of INT2 from 5, the shifts and rotations (R85). -/
def int2CountTable : List (Reg → Count → Instr) := [.asl, .asr, .shl, .shr, .rol, .ror]

/-- The operations 0 to 7 of INT1, which have the register form only (R86, R93). -/
def int1RegTable : List (Reg → Instr) := [.push, .pop, .nor, .neg, .clr, .set, .inc, .dec]

/-- The operations of INT1 from 8, the transfers of control (R86). -/
def int1TargetTable : List (Target → Instr) :=
  [.beq, .bne, .bgt, .blt, .bge, .bpl, .bmi, .bvc, .bvs, .bcc, .bcs, .bfeq, .bfne, .bfgt, .bflt, .bfge, .bfpl, .bfmi,
    .bfinf, .bfninf, .bfnnf, .bfnnnf, .bfnan, .bfnnan, .bfdn, .bfndn, .jmp, .call]

/-- FP3 (R87). -/
def fp3Table : List (FReg → FReg → FReg → Instr) := [.fadd, .fsub, .fmul, .fdiv, .fatan]

/-- FP2 (R88): an entry takes from its two fields, each read as an integer and as a floating-point register, what the
operation uses. -/
def fp2Table : List (Reg → FReg → Reg → FReg → Instr) :=
  [fun x _ _ g => .fld x g, fun x _ _ g => .fst x g, fun _ f _ g => .fcp f g, fun x _ _ g => .fitof x g,
    fun _ f y _ => .fftoi f y, fun _ f _ g => .fsqrt f g, fun _ f _ g => .fsin f g, fun _ f _ g => .fcos f g,
    fun _ f _ g => .flog f g, fun _ f _ g => .fexp f g, fun _ f _ g => .fcmp f g]

/-- FP1 (R89). -/
def fp1Table : List Fp1Op := [.clr, .push, .pop, .neg, .abs, .pi, .e]

/-- ZERO (R90): only `int` uses the field `n`. -/
def zeroTable : List (Nat → Instr) :=
  [fun _ => .nop, fun _ => .pushs, fun _ => .pops, fun _ => .clrz, fun _ => .clrn, fun _ => .clrc, fun _ => .clrv,
    fun _ => .setz, fun _ => .setn, fun _ => .setc, fun _ => .setv, fun _ => .jsr, fun _ => .rts, fun _ => .ret,
    fun _ => .rti, .int, fun _ => .stop, fun _ => .pushu, fun _ => .popu, fun _ => .user]

theorem decodeInt3_eq (w : Word) :
    decodeInt3 w =
      ofTable int3Table (bits w 30 27) fun mk => .ok (mk (regOf (bits w 26 22)) (int3Y w) (regOf (bits w 4 0))) := by
  simp only [decodeInt3, placeOf_int3Ops]
  generalize bits w 30 27 = op
  obtain h | h := Nat.lt_or_ge op 15
  · interval_cases op <;> rfl
  · rw [Nat.min_eq_right h]
    exact (ofTable_of_ge h).symm

theorem decodeInt2_eq (w : Word) :
    decodeInt2 w = if bits w 29 26 < 5 then ofTable int2RegTable (bits w 29 26) (int2Regs w)
      else ofTable int2CountTable (bits w 29 26 - 5) fun mk => .ok (mk (regOf (bits w 25 21)) (int2Count w)) := by
  simp only [decodeInt2, placeOf_int2Ops]
  generalize bits w 29 26 = op
  obtain h | h := Nat.lt_or_ge op 11
  · interval_cases op <;> rfl
  · rw [Nat.min_eq_right h, if_neg (by omega)]
    exact (ofTable_of_ge (by simp [int2CountTable]; omega)).symm

theorem decodeInt1_eq (w : Word) :
    decodeInt1 w = if bits w 28 23 < 8 then ofTable int1RegTable (bits w 28 23) (int1Reg w)
      else ofTable int1TargetTable (bits w 28 23 - 8) fun mk => .ok (mk (int1Target w)) := by
  simp only [decodeInt1, placeOf_int1Ops]
  generalize bits w 28 23 = op
  obtain h | h := Nat.lt_or_ge op 36
  · interval_cases op <;> rfl
  · rw [Nat.min_eq_right h, if_neg (by omega)]
    exact (ofTable_of_ge (by simp [int1TargetTable]; omega)).symm

theorem decodeFp3_eq (w : Word) :
    decodeFp3 w = ofTable fp3Table (bits w 26 24) fun mk =>
      .ok (mk (fregOf (bits w 23 20)) (fregOf (bits w 19 16)) (fregOf (bits w 15 12))) := by
  simp only [decodeFp3, placeOf_fp3Ops]
  generalize bits w 26 24 = op
  obtain h | h := Nat.lt_or_ge op 5
  · interval_cases op <;> rfl
  · rw [Nat.min_eq_right h]
    exact (ofTable_of_ge h).symm

theorem decodeFp2_eq (w : Word) :
    decodeFp2 w = ofTable fp2Table (bits w 25 22) fun mk =>
      .ok (mk (regOf (bits w 21 17)) (fregOf (bits w 20 17)) (regOf (bits w 16 12)) (fregOf (bits w 15 12))) := by
  simp only [decodeFp2, placeOf_fp2Ops]
  generalize bits w 25 22 = op
  obtain h | h := Nat.lt_or_ge op 11
  · interval_cases op <;> rfl
  · rw [Nat.min_eq_right h]
    exact (ofTable_of_ge h).symm

theorem fp1Map_lookup (op : Nat) : fp1Map.lookup op = fp1Table[op]? := by
  obtain h | h := Nat.lt_or_ge op 7
  · interval_cases op <;> rfl
  · have hne : ∀ k < 7, (op == k) = false := fun k hk => by simp; omega
    rw [List.getElem?_eq_none h]
    simp [fp1Map, List.lookup, hne]

theorem decodeFp1_eq (w : Word) :
    decodeFp1 w = ofTable fp1Table (bits w 24 22) fun o => .ok (fp1Instr (fregOf (bits w 21 18)) o) := by
  rw [decodeFp1, fp1Map_lookup, ofTable]
  cases fp1Table[bits w 24 22]? <;> rfl

theorem decodeZero_eq (w : Word) :
    decodeZero w = ofTable zeroTable (bits w 27 23) fun mk => .ok (mk (bits w 22 15)) := by
  simp only [decodeZero, placeOf_zeroOps]
  generalize bits w 27 23 = op
  obtain h | h := Nat.lt_or_ge op 20
  · interval_cases op <;> rfl
  · rw [Nat.min_eq_right h]
    exact (ofTable_of_ge h).symm

/-! ## The format that the leading bits choose (R71) -/

theorem decode_of_int3 {w : Word} (h : bits w 31 31 = 1) : decode w = decodeInt3 w := if_pos h

theorem decode_of_int2 {w : Word} (h : bits w 31 30 = 1) : decode w = decodeInt2 w := by
  have := bits_leading w
  rw [decode_eq, decodeDiagram, if_neg (by omega), if_pos h]

theorem decode_of_int1 {w : Word} (h : bits w 31 29 = 1) : decode w = decodeInt1 w := by
  have := bits_leading w
  rw [decode_eq, decodeDiagram, if_neg (by omega), if_neg (by omega), if_pos h]

theorem decode_of_zero {w : Word} (h : bits w 31 28 = 0) : decode w = decodeZero w := by
  have := bits_leading w
  rw [decode_eq, decodeDiagram, if_neg (by omega), if_neg (by omega), if_neg (by omega), if_pos h]

theorem decode_of_fp3 {w : Word} (h : bits w 31 27 = 3) : decode w = decodeFp3 w := by
  have := bits_leading w
  rw [decode_eq, decodeDiagram, if_neg (by omega), if_neg (by omega), if_neg (by omega), if_neg (by omega), if_pos h]

theorem decode_of_fp2 {w : Word} (h : bits w 31 26 = 5) : decode w = decodeFp2 w := by
  have := bits_leading w
  rw [decode_eq, decodeDiagram, if_neg (by omega), if_neg (by omega), if_neg (by omega), if_neg (by omega),
    if_neg (by omega), if_pos h]

theorem decode_of_fp1 {w : Word} (h : bits w 31 25 = 9) : decode w = decodeFp1 w := by
  have := bits_leading w
  rw [decode_eq, decodeDiagram, if_neg (by omega), if_neg (by omega), if_neg (by omega), if_neg (by omega),
    if_neg (by omega), if_neg (by omega), if_pos h]

theorem decode_of_simd {w : Word} (h : bits w 31 23 = 34) : decode w = decodeSimd w := by
  have := bits_leading w
  rw [decode_eq, decodeDiagram, if_neg (by omega), if_neg (by omega), if_neg (by omega), if_neg (by omega),
    if_neg (by omega), if_neg (by omega), if_neg (by omega), if_pos h]

/-- No format has the leading bits 000100011 or 00010000 (R92). -/
theorem decode_of_unassigned {w : Word} (h : bits w 31 23 = 35 ∨ bits w 31 24 = 16) :
    decode w = .error .reservedEncoding := by
  have := bits_leading w
  rw [decode_eq, decodeDiagram, if_neg (by omega), if_neg (by omega), if_neg (by omega), if_neg (by omega),
    if_neg (by omega), if_neg (by omega), if_neg (by omega), if_neg (by omega)]

/-- Every word has the leading bits of a format, or unassigned ones. -/
theorem format_cases (w : Word) :
    bits w 31 31 = 1 ∨ bits w 31 30 = 1 ∨ bits w 31 29 = 1 ∨ bits w 31 28 = 0 ∨ bits w 31 27 = 3 ∨ bits w 31 26 = 5 ∨
      bits w 31 25 = 9 ∨ bits w 31 23 = 34 ∨ bits w 31 23 = 35 ∨ bits w 31 24 = 16 := by
  have := bits_leading w
  omega

end Sys2Proof.Laws

/-! Every instruction that the decoder gives is well formed, and the decoder undoes the encoder (R71 to R90). -/

namespace Sys2Proof.Laws
open Sys2Proof.Machine

/-! ## What decodes is well formed -/

theorem int3Table_wellFormed : ∀ mk ∈ int3Table, ∀ x y z, (mk x y z).wellFormed = y.wellFormed := by
  simp only [int3Table, List.forall_mem_cons, List.not_mem_nil, false_implies, implies_true, and_true]
  and_intros <;> exact fun _ _ _ => rfl

theorem int2RegTable_wellFormed : ∀ mk ∈ int2RegTable, ∀ x y, (mk x y).wellFormed = true := by
  simp only [int2RegTable, List.forall_mem_cons, List.not_mem_nil, false_implies, implies_true, and_true]
  and_intros <;> exact fun _ _ => rfl

theorem int2CountTable_wellFormed : ∀ mk ∈ int2CountTable, ∀ x y, (mk x y).wellFormed = y.wellFormed := by
  simp only [int2CountTable, List.forall_mem_cons, List.not_mem_nil, false_implies, implies_true, and_true]
  and_intros <;> exact fun _ _ => rfl

theorem int1RegTable_wellFormed : ∀ mk ∈ int1RegTable, ∀ x, (mk x).wellFormed = true := by
  simp only [int1RegTable, List.forall_mem_cons, List.not_mem_nil, false_implies, implies_true, and_true]
  and_intros <;> exact fun _ => rfl

theorem int1TargetTable_wellFormed : ∀ mk ∈ int1TargetTable, ∀ x, (mk x).wellFormed = x.wellFormed := by
  simp only [int1TargetTable, List.forall_mem_cons, List.not_mem_nil, false_implies, implies_true, and_true]
  and_intros <;> exact fun _ => rfl

theorem fp3Table_wellFormed : ∀ mk ∈ fp3Table, ∀ f g h, (mk f g h).wellFormed = true := by
  simp only [fp3Table, List.forall_mem_cons, List.not_mem_nil, false_implies, implies_true, and_true]
  and_intros <;> exact fun _ _ _ => rfl

theorem fp2Table_wellFormed : ∀ mk ∈ fp2Table, ∀ x f y g, (mk x f y g).wellFormed = true := by
  simp only [fp2Table, List.forall_mem_cons, List.not_mem_nil, false_implies, implies_true, and_true]
  and_intros <;> exact fun _ _ _ _ => rfl

theorem fp1Instr_wellFormed (f : FReg) (o : Fp1Op) : (fp1Instr f o).wellFormed = true := by cases o <;> rfl

theorem zeroTable_wellFormed : ∀ mk ∈ zeroTable, ∀ n < 256, (mk n).wellFormed = true := by
  simp only [zeroTable, List.forall_mem_cons, List.not_mem_nil, false_implies, implies_true, and_true]
  and_intros
  any_goals exact fun _ _ => rfl
  exact fun _ hn => decide_eq_true hn

theorem decodeInt3_wellFormed {w : Word} {i : Instr} (h : decodeInt3 w = .ok i) : i.wellFormed = true := by
  rw [decodeInt3_eq] at h
  obtain ⟨mk, hmk, ⟨⟩⟩ := ofTable_eq_ok h
  exact (int3Table_wellFormed mk hmk _ _ _).trans (int3Y_wellFormed w)

theorem decodeInt2_wellFormed {w : Word} {i : Instr} (h : decodeInt2 w = .ok i) : i.wellFormed = true := by
  rw [decodeInt2_eq] at h
  split at h
  · obtain ⟨mk, hmk, h⟩ := ofTable_eq_ok h
    unfold int2Regs at h
    split at h <;> cases h
    exact int2RegTable_wellFormed mk hmk _ _
  · obtain ⟨mk, hmk, ⟨⟩⟩ := ofTable_eq_ok h
    exact (int2CountTable_wellFormed mk hmk _ _).trans (int2Count_wellFormed w)

theorem decodeInt1_wellFormed {w : Word} {i : Instr} (h : decodeInt1 w = .ok i) : i.wellFormed = true := by
  rw [decodeInt1_eq] at h
  split at h
  · obtain ⟨mk, hmk, h⟩ := ofTable_eq_ok h
    unfold int1Reg at h
    split at h <;> cases h
    exact int1RegTable_wellFormed mk hmk _
  · obtain ⟨mk, hmk, ⟨⟩⟩ := ofTable_eq_ok h
    exact (int1TargetTable_wellFormed mk hmk _).trans (int1Target_wellFormed w)

theorem decodeFp3_wellFormed {w : Word} {i : Instr} (h : decodeFp3 w = .ok i) : i.wellFormed = true := by
  rw [decodeFp3_eq] at h
  obtain ⟨mk, hmk, ⟨⟩⟩ := ofTable_eq_ok h
  exact fp3Table_wellFormed mk hmk _ _ _

theorem decodeFp2_wellFormed {w : Word} {i : Instr} (h : decodeFp2 w = .ok i) : i.wellFormed = true := by
  rw [decodeFp2_eq] at h
  obtain ⟨mk, hmk, ⟨⟩⟩ := ofTable_eq_ok h
  exact fp2Table_wellFormed mk hmk _ _ _ _

theorem decodeFp1_wellFormed {w : Word} {i : Instr} (h : decodeFp1 w = .ok i) : i.wellFormed = true := by
  rw [decodeFp1_eq] at h
  obtain ⟨o, -, ⟨⟩⟩ := ofTable_eq_ok h
  exact fp1Instr_wellFormed _ o

theorem decodeZero_wellFormed {w : Word} {i : Instr} (h : decodeZero w = .ok i) : i.wellFormed = true := by
  rw [decodeZero_eq] at h
  obtain ⟨mk, hmk, ⟨⟩⟩ := ofTable_eq_ok h
  exact zeroTable_wellFormed mk hmk _ (Nat.mod_lt _ (by decide))

theorem decodeSimd_wellFormed {w : Word} {i : Instr} (h : decodeSimd w = .ok i) : i.wellFormed = true := by
  unfold decodeSimd at h
  split at h <;> cases h
  rfl

theorem decode_wellFormed {w : Word} {i : Instr} (h : decode w = .ok i) : i.wellFormed = true := by
  obtain hp | hp | hp | hp | hp | hp | hp | hp | hp := format_cases w
  · exact decodeInt3_wellFormed (decode_of_int3 hp ▸ h)
  · exact decodeInt2_wellFormed (decode_of_int2 hp ▸ h)
  · exact decodeInt1_wellFormed (decode_of_int1 hp ▸ h)
  · exact decodeZero_wellFormed (decode_of_zero hp ▸ h)
  · exact decodeFp3_wellFormed (decode_of_fp3 hp ▸ h)
  · exact decodeFp2_wellFormed (decode_of_fp2 hp ▸ h)
  · exact decodeFp1_wellFormed (decode_of_fp1 hp ▸ h)
  · exact decodeSimd_wellFormed (decode_of_simd hp ▸ h)
  · rw [decode_of_unassigned hp] at h
    cases h

/-! ## The operands of an encoded instruction -/

/-- The two forms of operand Y, from a mode bit and a field that hold them (R72, R73). -/
theorem int3Y_of_srcField {w : Word} {y : Src} (hy : y.wellFormed = true) (h : bits w 21 5 = srcField y) :
    int3Y w = y := by
  have hm : bits w 21 21 = srcField y / 2 ^ 16 := by rw [← h]; simp only [bits]; omega
  cases y with
  | reg r =>
    have hr := r.isLt
    have h9 : bits w 9 5 = regNumber r := by
      simp only [bits, srcField, regNumber_eq] at h ⊢; omega
    rw [int3Y, if_pos (by rw [hm, srcField, regNumber_eq]; omega), h9, regOf_regNumber]
  | lit v =>
    simp only [Src.wellFormed, decide_eq_true_eq] at hy
    have hv : fieldOf 16 v < 2 ^ 16 := by simp only [fieldOf]; omega
    have h20 : bits w 20 5 = fieldOf 16 v := by simp only [bits, srcField] at h ⊢; omega
    rw [int3Y, if_neg (by rw [hm, srcField]; omega), h20, signedOf_fieldOf (by decide) hy.1 hy.2]

/-- The two forms of a count, from a mode bit and a field that hold them (R74, R75). -/
theorem int2Count_of_countField {w : Word} {y : Count} (hy : y.wellFormed = true) (h : bits w 20 15 = countField y) :
    int2Count w = y := by
  have hm : bits w 20 20 = countField y / 2 ^ 5 := by rw [← h]; simp only [bits]; omega
  have h19 : bits w 19 15 = countField y % 2 ^ 5 := by rw [← h]; simp only [bits]; omega
  cases y with
  | reg r =>
    have hr := r.isLt
    have hn : countField (.reg r) % 2 ^ 5 = regNumber r := by simp only [countField, regNumber_eq]; omega
    rw [int2Count, if_pos (by rw [hm, countField, regNumber_eq]; omega), h19, hn, regOf_regNumber]
  | lit n =>
    simp only [Count.wellFormed, decide_eq_true_eq] at hy
    have hn : countField (.lit n) % 2 ^ 5 = n := by simp only [countField]; omega
    rw [int2Count, if_neg (by rw [hm, countField]; omega), h19, hn]

/-- The two forms of a target, from a mode bit and a field that hold them (R76, R77). -/
theorem int1Target_of_targetField {w : Word} {x : Target} (hx : x.wellFormed = true) (h : bits w 22 0 = targetField x) :
    int1Target w = x := by
  have hm : bits w 22 22 = targetField x / 2 ^ 22 := by rw [← h]; simp only [bits]; omega
  cases x with
  | reg r =>
    have hr := r.isLt
    have h4 : bits w 4 0 = regNumber r := by
      simp only [bits, targetField, regNumber_eq] at h ⊢; omega
    rw [int1Target, if_pos (by rw [hm, targetField, regNumber_eq]; omega), h4, regOf_regNumber]
  | rel v =>
    simp only [Target.wellFormed, decide_eq_true_eq] at hx
    have hv : fieldOf 22 v < 2 ^ 22 := by simp only [fieldOf]; omega
    have h21 : bits w 21 0 = fieldOf 22 v := by simp only [bits, targetField] at h ⊢; omega
    rw [int1Target, if_neg (by rw [hm, targetField]; omega), h21, signedOf_fieldOf (by decide) hx.1 hx.2]

theorem srcField_lt (y : Src) : srcField y < 2 ^ 17 := by
  cases y with
  | reg r => have := r.isLt; simp only [srcField, regNumber_eq]; omega
  | lit v => simp only [srcField, fieldOf]; omega

theorem countField_lt {y : Count} (hy : y.wellFormed = true) : countField y < 2 ^ 6 := by
  cases y with
  | reg r => have := r.isLt; simp only [countField, regNumber_eq]; omega
  | lit n => simp only [Count.wellFormed, decide_eq_true_eq] at hy; simp only [countField]; omega

theorem targetField_lt (x : Target) : targetField x < 2 ^ 23 := by
  cases x with
  | reg r => have := r.isLt; simp only [targetField, regNumber_eq]; omega
  | rel v => simp only [targetField, fieldOf]; omega

/-! ## What the word of each format decodes to -/

theorem decode_encInt3 {k : Nat} {x z : Reg} {y : Src} (hk : k < 15) (hy : y.wellFormed = true) :
    decode (encInt3 k x y z) = ofTable int3Table k fun mk => .ok (mk x y z) := by
  have hw := encInt3_toNat (x := x) (y := y) (z := z) (show k < 16 by omega)
  have hx := x.isLt
  have hz := z.isLt
  have hs := srcField_lt y
  have hop : bits (encInt3 k x y z) 30 27 = k := by simp only [bits, hw]; omega
  have h26 : bits (encInt3 k x y z) 26 22 = regNumber x := by simp only [bits, hw, regNumber_eq]; omega
  have h21 : bits (encInt3 k x y z) 21 5 = srcField y := by simp only [bits, hw]; omega
  have h4 : bits (encInt3 k x y z) 4 0 = regNumber z := by simp only [bits, hw, regNumber_eq]; omega
  rw [decode_of_int3 (by simp only [bits, hw]; omega), decodeInt3_eq, hop, h26, h4, int3Y_of_srcField hy h21,
    regOf_regNumber, regOf_regNumber]

theorem decode_encInt2_reg {k : Nat} {x y : Reg} (hk : k < 5) :
    decode (encInt2 k x (.reg y)) = ofTable int2RegTable k fun mk => .ok (mk x y) := by
  have hw := encInt2_toNat (x := x) (y := .reg y) (show k < 16 by omega) rfl
  have hx := x.isLt
  have hy := y.isLt
  simp only [countField, regNumber_eq] at hw
  have hop : bits (encInt2 k x (.reg y)) 29 26 = k := by simp only [bits, hw]; omega
  have h25 : bits (encInt2 k x (.reg y)) 25 21 = regNumber x := by simp only [bits, hw, regNumber_eq]; omega
  have h19 : bits (encInt2 k x (.reg y)) 19 15 = regNumber y := by simp only [bits, hw, regNumber_eq]; omega
  have hm : bits (encInt2 k x (.reg y)) 20 20 = 0 := encInt2_mode (by omega)
  have hregs : int2Regs (encInt2 k x (.reg y)) = fun mk => .ok (mk x y) := by
    funext mk
    rw [int2Regs, if_pos hm, h25, h19, regOf_regNumber, regOf_regNumber]
  rw [decode_of_int2 (by simp only [bits, hw]; omega), decodeInt2_eq, hop, if_pos hk, hregs]

theorem decode_encInt2_count {k : Nat} {x : Reg} {y : Count} (hk : 5 ≤ k ∧ k < 11) (hy : y.wellFormed = true) :
    decode (encInt2 k x y) = ofTable int2CountTable (k - 5) fun mk => .ok (mk x y) := by
  have hw := encInt2_toNat (x := x) (y := y) (show k < 16 by omega) hy
  have hx := x.isLt
  have hc := countField_lt hy
  have hop : bits (encInt2 k x y) 29 26 = k := by simp only [bits, hw]; omega
  have h25 : bits (encInt2 k x y) 25 21 = regNumber x := by simp only [bits, hw, regNumber_eq]; omega
  have h20 : bits (encInt2 k x y) 20 15 = countField y := by simp only [bits, hw]; omega
  rw [decode_of_int2 (by simp only [bits, hw]; omega), decodeInt2_eq, hop, if_neg (by omega), h25,
    int2Count_of_countField hy h20, regOf_regNumber]

theorem decode_encInt1_reg {k : Nat} {x : Reg} (hk : k < 8) :
    decode (encInt1 k (.reg x)) = ofTable int1RegTable k fun mk => .ok (mk x) := by
  have hw := encInt1_toNat (x := .reg x) (show k < 64 by omega)
  have hx := x.isLt
  simp only [targetField, regNumber_eq] at hw
  have hop : bits (encInt1 k (.reg x)) 28 23 = k := by simp only [bits, hw]; omega
  have h4 : bits (encInt1 k (.reg x)) 4 0 = regNumber x := by simp only [bits, hw, regNumber_eq]; omega
  have hm : bits (encInt1 k (.reg x)) 22 22 = 0 := by simp only [bits, hw]; omega
  have hregs : int1Reg (encInt1 k (.reg x)) = fun mk => .ok (mk x) := by
    funext mk
    rw [int1Reg, if_pos hm, h4, regOf_regNumber]
  rw [decode_of_int1 (by simp only [bits, hw]; omega), decodeInt1_eq, hop, if_pos hk, hregs]

theorem decode_encInt1_target {k : Nat} {x : Target} (hk : 8 ≤ k ∧ k < 36) (hx : x.wellFormed = true) :
    decode (encInt1 k x) = ofTable int1TargetTable (k - 8) fun mk => .ok (mk x) := by
  have hw := encInt1_toNat (x := x) (show k < 64 by omega)
  have ht := targetField_lt x
  have hop : bits (encInt1 k x) 28 23 = k := by simp only [bits, hw]; omega
  have h22 : bits (encInt1 k x) 22 0 = targetField x := by simp only [bits, hw]; omega
  rw [decode_of_int1 (by simp only [bits, hw]; omega), decodeInt1_eq, hop, if_neg (by omega),
    int1Target_of_targetField hx h22]

theorem decode_encFp3 {k : Nat} {f g h : FReg} (hk : k < 5) :
    decode (encFp3 k f g h) = ofTable fp3Table k fun mk => .ok (mk f g h) := by
  have hw := encFp3_toNat (f := f) (g := g) (h := h) (show k < 8 by omega)
  have hf := f.isLt
  have hg := g.isLt
  have hh := h.isLt
  have hop : bits (encFp3 k f g h) 26 24 = k := by simp only [bits, hw]; omega
  have h23 : bits (encFp3 k f g h) 23 20 = f.val := by simp only [bits, hw]; omega
  have h19 : bits (encFp3 k f g h) 19 16 = g.val := by simp only [bits, hw]; omega
  have h15 : bits (encFp3 k f g h) 15 12 = h.val := by simp only [bits, hw]; omega
  rw [decode_of_fp3 (by simp only [bits, hw]; omega), decodeFp3_eq, hop, h23, h19, h15, fregOf_val, fregOf_val,
    fregOf_val]

/-- Both fields of an FP2 word, each read as an integer and as a floating-point register (R79). -/
theorem decode_encFp2 {k a b : Nat} (hk : k < 11) (ha : a < 32) (hb : b < 32) :
    decode (encFp2 k a b) = ofTable fp2Table k fun mk =>
      .ok (mk (regOf a) (fregOf (a % 16)) (regOf b) (fregOf (b % 16))) := by
  have hw := encFp2_toNat (show k < 16 by omega) ha hb
  have hop : bits (encFp2 k a b) 25 22 = k := by simp only [bits, hw]; omega
  have h21 : bits (encFp2 k a b) 21 17 = a := by simp only [bits, hw]; omega
  have h20 : bits (encFp2 k a b) 20 17 = a % 16 := by simp only [bits, hw]; omega
  have h16 : bits (encFp2 k a b) 16 12 = b := by simp only [bits, hw]; omega
  have h15 : bits (encFp2 k a b) 15 12 = b % 16 := by simp only [bits, hw]; omega
  rw [decode_of_fp2 (by simp only [bits, hw]; omega), decodeFp2_eq, hop, h21, h20, h16, h15]

theorem fp1Number_lookup (o : Fp1Op) : fp1Table[fp1Number o]? = some o := by cases o <;> rfl

theorem decode_encFp1 (o : Fp1Op) (f : FReg) : decode (encFp1 o f) = .ok (fp1Instr f o) := by
  have hw := encFp1_toNat (o := o) (f := f)
  have hf := f.isLt
  have ho : fp1Number o < 7 := (List.getElem?_eq_some_iff.1 (fp1Number_lookup o)).1
  have hop : bits (encFp1 o f) 24 22 = fp1Number o := by simp only [bits, hw]; omega
  have h21 : bits (encFp1 o f) 21 18 = f.val := by simp only [bits, hw]; omega
  rw [decode_of_fp1 (by simp only [bits, hw]; omega), decodeFp1_eq, hop, h21, ofTable, fp1Number_lookup, fregOf_val]
  rfl

theorem decode_encZero {k n : Nat} (hk : k < 20) (hn : n < 256) :
    decode (encZero k n) = ofTable zeroTable k fun mk => .ok (mk n) := by
  have hw := encZero_toNat (show k < 32 by omega) hn
  have hop : bits (encZero k n) 27 23 = k := by simp only [bits, hw]; omega
  have h22 : bits (encZero k n) 22 15 = n := by simp only [bits, hw]; omega
  rw [decode_of_zero (by simp only [bits, hw]; omega), decodeZero_eq, hop, h22]

/-- An FP2 word with an integer and a floating-point operand, and so for the other two pairs of kinds. -/
theorem decode_encFp2_reg_freg {k : Nat} (x : Reg) (g : FReg) (hk : k < 11) :
    decode (encFp2 k (regNumber x) g.val) =
      ofTable fp2Table k fun mk => .ok (mk x (fregOf (regNumber x % 16)) (regOf g.val) g) := by
  rw [decode_encFp2 hk (regNumber_lt x) (by omega), Nat.mod_eq_of_lt g.isLt, regOf_regNumber, fregOf_val]

theorem decode_encFp2_freg_reg {k : Nat} (f : FReg) (y : Reg) (hk : k < 11) :
    decode (encFp2 k f.val (regNumber y)) =
      ofTable fp2Table k fun mk => .ok (mk (regOf f.val) f y (fregOf (regNumber y % 16))) := by
  rw [decode_encFp2 hk (by omega) (regNumber_lt y), Nat.mod_eq_of_lt f.isLt, regOf_regNumber, fregOf_val]

theorem decode_encFp2_freg_freg {k : Nat} (f g : FReg) (hk : k < 11) :
    decode (encFp2 k f.val g.val) = ofTable fp2Table k fun mk => .ok (mk (regOf f.val) f (regOf g.val) g) := by
  rw [decode_encFp2 hk (by omega) (by omega), Nat.mod_eq_of_lt f.isLt, Nat.mod_eq_of_lt g.isLt, fregOf_val, fregOf_val]

/-- The decoder undoes the encoder: by the format of the instruction, whose table gives the instruction back. -/
theorem decode_encode {i : Instr} (hi : i.wellFormed = true) : decode (encode i) = .ok i := by
  rw [encode_eq]
  cases i with
  | and x y z | or x y z | xor x y z | add x y z | sub x y z | addc x y z | subc x y z | mullo x y z | mulhi x y z
  | mulslo x y z | mulshi x y z | div x y z | divs x y z | mod x y z | mods x y z =>
    exact decode_encInt3 (by decide) hi
  | ld x y | st x y | cp x y | cmp x y | bit x y => exact decode_encInt2_reg (by decide)
  | asl x y | asr x y | shl x y | shr x y | rol x y | ror x y => exact decode_encInt2_count (by decide) hi
  | push x | pop x | nor x | neg x | clr x | set x | inc x | dec x => exact decode_encInt1_reg (by decide)
  | beq x | bne x | bgt x | blt x | bge x | bpl x | bmi x | bvc x | bvs x | bcc x | bcs x | bfeq x | bfne x | bfgt x
  | bflt x | bfge x | bfpl x | bfmi x | bfinf x | bfninf x | bfnnf x | bfnnnf x | bfnan x | bfnnan x | bfdn x
  | bfndn x | jmp x | call x => exact decode_encInt1_target (by decide) hi
  | fadd f g h | fsub f g h | fmul f g h | fdiv f g h | fatan f g h => exact decode_encFp3 (by decide)
  | fld x g | fst x g | fitof x g => exact decode_encFp2_reg_freg x g (by decide)
  | fftoi f y => exact decode_encFp2_freg_reg f y (by decide)
  | fcp f g | fsqrt f g | fsin f g | fcos f g | flog f g | fexp f g | fcmp f g =>
    exact decode_encFp2_freg_freg f g (by decide)
  | fclr f | fpush f | fpop f | fneg f | fabs f | fpi f | fe f => exact decode_encFp1 _ f
  | int n => exact decode_encZero (by decide) (of_decide_eq_true hi)
  | nop | pushs | pops | clrz | clrn | clrc | clrv | setz | setn | setc | setv | jsr | rts | ret | rti | stop | pushu
  | popu | user => exact decode_encZero (by decide) (by decide)
  | simdNop => rfl

end Sys2Proof.Laws

/-! The words that are no instruction (R92, R93), and the bits that do not matter (R91). -/

namespace Sys2Proof.Laws
open Sys2Proof.Machine

/-! ## Why a format rejects a word -/

theorem decodeInt3_eq_error {w : Word} {e : DecodeError} :
    decodeInt3 w = .error e ↔ e = .reservedEncoding ∧ 15 ≤ bits w 30 27 := by
  rw [decodeInt3_eq, ofTable_ok_eq_error]
  rfl

theorem int2Regs_eq_error {w : Word} {mk : Reg → Reg → Instr} {e : DecodeError} :
    int2Regs w mk = .error e ↔ e = .reservedOperandForm ∧ bits w 20 20 = 1 := by
  obtain h | h := bits_one_bit w 20 <;> simp [int2Regs, h, eq_comm]

theorem int1Reg_eq_error {w : Word} {mk : Reg → Instr} {e : DecodeError} :
    int1Reg w mk = .error e ↔ e = .reservedOperandForm ∧ bits w 22 22 = 1 := by
  obtain h | h := bits_one_bit w 22 <;> simp [int1Reg, h, eq_comm]

theorem decodeInt2_eq_error {w : Word} {e : DecodeError} :
    decodeInt2 w = .error e ↔ (e = .reservedEncoding ∧ 11 ≤ bits w 29 26) ∨
      (e = .reservedOperandForm ∧ bits w 29 26 ≤ 4 ∧ bits w 20 20 = 1) := by
  rw [decodeInt2_eq]
  by_cases h : bits w 29 26 < 5
  · have h4 : bits w 29 26 ≤ 4 := by omega
    have h11 : ¬ 11 ≤ bits w 29 26 := by omega
    rw [if_pos h, ofTable_of_lt h, int2Regs_eq_error]
    simp [h4, h11]
  · have h4 : ¬ bits w 29 26 ≤ 4 := by omega
    have h11 : int2CountTable.length ≤ bits w 29 26 - 5 ↔ 11 ≤ bits w 29 26 := by
      simp only [int2CountTable, List.length_cons, List.length_nil]; omega
    rw [if_neg h, ofTable_ok_eq_error, h11]
    simp [h4]

theorem decodeInt1_eq_error {w : Word} {e : DecodeError} :
    decodeInt1 w = .error e ↔ (e = .reservedEncoding ∧ 36 ≤ bits w 28 23) ∨
      (e = .reservedOperandForm ∧ bits w 28 23 ≤ 7 ∧ bits w 22 22 = 1) := by
  rw [decodeInt1_eq]
  by_cases h : bits w 28 23 < 8
  · have h7 : bits w 28 23 ≤ 7 := by omega
    have h36 : ¬ 36 ≤ bits w 28 23 := by omega
    rw [if_pos h, ofTable_of_lt h, int1Reg_eq_error]
    simp [h7, h36]
  · have h7 : ¬ bits w 28 23 ≤ 7 := by omega
    have h36 : int1TargetTable.length ≤ bits w 28 23 - 8 ↔ 36 ≤ bits w 28 23 := by
      simp only [int1TargetTable, List.length_cons, List.length_nil]; omega
    rw [if_neg h, ofTable_ok_eq_error, h36]
    simp [h7]

theorem decodeFp3_eq_error {w : Word} {e : DecodeError} :
    decodeFp3 w = .error e ↔ e = .reservedEncoding ∧ 5 ≤ bits w 26 24 := by
  rw [decodeFp3_eq, ofTable_ok_eq_error]
  rfl

theorem decodeFp2_eq_error {w : Word} {e : DecodeError} :
    decodeFp2 w = .error e ↔ e = .reservedEncoding ∧ 11 ≤ bits w 25 22 := by
  rw [decodeFp2_eq, ofTable_ok_eq_error]
  rfl

theorem decodeFp1_eq_error {w : Word} {e : DecodeError} :
    decodeFp1 w = .error e ↔ e = .reservedEncoding ∧ 7 ≤ bits w 24 22 := by
  rw [decodeFp1_eq, ofTable_ok_eq_error]
  rfl

theorem decodeZero_eq_error {w : Word} {e : DecodeError} :
    decodeZero w = .error e ↔ e = .reservedEncoding ∧ 20 ≤ bits w 27 23 := by
  rw [decodeZero_eq, ofTable_ok_eq_error]
  rfl

theorem decodeSimd_eq_error {w : Word} {e : DecodeError} :
    decodeSimd w = .error e ↔ e = .reservedEncoding ∧ bits w 22 0 ≠ 0 := by
  by_cases h : bits w 22 0 = 0 <;> simp [decodeSimd, h, eq_comm]

/-- The leading bits of each format as a range of the top nine bits; the ranges do not meet (R71). -/
theorem leading_iff (w : Word) :
    (bits w 31 31 = 1 ↔ 256 ≤ bits w 31 23) ∧
      (bits w 31 30 = 1 ↔ 128 ≤ bits w 31 23 ∧ bits w 31 23 < 256) ∧
      (bits w 31 29 = 1 ↔ 64 ≤ bits w 31 23 ∧ bits w 31 23 < 128) ∧
      (bits w 31 28 = 0 ↔ bits w 31 23 < 32) ∧
      (bits w 31 27 = 3 ↔ 48 ≤ bits w 31 23 ∧ bits w 31 23 < 64) ∧
      (bits w 31 26 = 5 ↔ 40 ≤ bits w 31 23 ∧ bits w 31 23 < 48) ∧
      (bits w 31 25 = 9 ↔ 36 ≤ bits w 31 23 ∧ bits w 31 23 < 40) ∧
      (bits w 31 24 = 16 ↔ 32 ≤ bits w 31 23 ∧ bits w 31 23 < 34) := by
  have := bits_leading w
  omega

/-- The two lists of R92 and R93 hold all rejected words: by the format, whose leading bits leave no clauses but
its own. -/
theorem decode_eq_error {w : Word} {e : DecodeError} :
    decode w = .error e ↔ (e = .reservedEncoding ∧ ReservedWord w) ∨ (e = .reservedOperandForm ∧ ReservedForm w) := by
  obtain hp | hp | hp | hp | hp | hp | hp | hp | hp := format_cases w
  · have hop : bits w 30 27 < 16 := Nat.mod_lt _ (by decide)
    have hr : ReservedWord w ↔ 15 ≤ bits w 30 27 := by simp only [ReservedWord, leading_iff] at hp ⊢; omega
    have hf : ¬ ReservedForm w := by simp only [ReservedForm, leading_iff] at hp ⊢; omega
    simp [decode_of_int3 hp, decodeInt3_eq_error, hr, hf]
  · have hr : ReservedWord w ↔ 11 ≤ bits w 29 26 := by simp only [ReservedWord, leading_iff] at hp ⊢; omega
    have hf : ReservedForm w ↔ bits w 29 26 ≤ 4 ∧ bits w 20 20 = 1 := by
      simp only [ReservedForm, leading_iff] at hp ⊢; omega
    simp [decode_of_int2 hp, decodeInt2_eq_error, hr, hf]
  · have hr : ReservedWord w ↔ 36 ≤ bits w 28 23 := by simp only [ReservedWord, leading_iff] at hp ⊢; omega
    have hf : ReservedForm w ↔ bits w 28 23 ≤ 7 ∧ bits w 22 22 = 1 := by
      simp only [ReservedForm, leading_iff] at hp ⊢; omega
    simp [decode_of_int1 hp, decodeInt1_eq_error, hr, hf]
  · have hr : ReservedWord w ↔ 20 ≤ bits w 27 23 := by simp only [ReservedWord, leading_iff] at hp ⊢; omega
    have hf : ¬ ReservedForm w := by simp only [ReservedForm, leading_iff] at hp ⊢; omega
    simp [decode_of_zero hp, decodeZero_eq_error, hr, hf]
  · have hr : ReservedWord w ↔ 5 ≤ bits w 26 24 := by simp only [ReservedWord, leading_iff] at hp ⊢; omega
    have hf : ¬ ReservedForm w := by simp only [ReservedForm, leading_iff] at hp ⊢; omega
    simp [decode_of_fp3 hp, decodeFp3_eq_error, hr, hf]
  · have hr : ReservedWord w ↔ 11 ≤ bits w 25 22 := by simp only [ReservedWord, leading_iff] at hp ⊢; omega
    have hf : ¬ ReservedForm w := by simp only [ReservedForm, leading_iff] at hp ⊢; omega
    simp [decode_of_fp2 hp, decodeFp2_eq_error, hr, hf]
  · have hop : bits w 24 22 < 8 := Nat.mod_lt _ (by decide)
    have hr : ReservedWord w ↔ 7 ≤ bits w 24 22 := by simp only [ReservedWord, leading_iff] at hp ⊢; omega
    have hf : ¬ ReservedForm w := by simp only [ReservedForm, leading_iff] at hp ⊢; omega
    simp [decode_of_fp1 hp, decodeFp1_eq_error, hr, hf]
  · have hr : ReservedWord w ↔ bits w 22 0 ≠ 0 := by simp only [ReservedWord, leading_iff] at hp ⊢; omega
    have hf : ¬ ReservedForm w := by simp only [ReservedForm, leading_iff] at hp ⊢; omega
    simp [decode_of_simd hp, decodeSimd_eq_error, hr, hf]
  · have hr : ReservedWord w := .inr (.inr (.inr (.inr (.inr (.inr (.inr (.inr hp)))))))
    have hf : ¬ ReservedForm w := by simp only [ReservedForm, leading_iff] at hp ⊢; omega
    simp [decode_of_unassigned hp, hr, hf, eq_comm]

/-- The step that fetches a word that is no instruction is refused under the name the decoder gives (R92, R93). -/
theorem step_of_decode_error {s : State} {w : Word} {e : DecodeError} (he : Executes s) (hf : Fetches s w)
    (hd : decode w = .error e) : step s = .refused (refusalOf e) := by
  obtain ⟨hw, hp⟩ := executes_iff.1 he
  have hfetch := State.fetch_eq_next.2 (fetches_arriveBetween_wake.2 hf)
  simp [step, hw, hp, runInstr, hfetch, hd]

/-! ## Words that agree where the bits matter (R91) -/

/-- `w'` agrees with `w` on every bit that is not ignored in `w`. -/
def Agrees (w w' : Word) : Prop := ∀ i < 32, ¬ Ignored w i → w'.getLsbD i = w.getLsbD i

/-- Words that agree have the same value in every field without an ignored bit. -/
theorem Agrees.bits_eq {w w' : Word} {hi lo : Nat} (h : Agrees w w') (hhi : hi < 32)
    (hno : ∀ i, lo ≤ i → i ≤ hi → ¬ Ignored w i) : bits w' hi lo = bits w hi lo :=
  bits_congr fun i hlo hle => h i (by omega) (hno i hlo hle)

theorem Agrees.eq_of_none_ignored {w w' : Word} (h : Agrees w w') (hno : ∀ i, ¬ Ignored w i) : w' = w :=
  BitVec.eq_of_getLsbD_eq fun i hi => h i hi (hno i)

/-! The ignored bits of each format. -/

section
variable {w : Word} {i : Nat}

theorem ignored_int3 (hp : bits w 31 31 = 1) : Ignored w i ↔ bits w 21 21 = 0 ∧ 10 ≤ i ∧ i ≤ 20 := by
  simp only [Ignored, leading_iff] at hp ⊢; omega

theorem ignored_int2 (hp : bits w 31 30 = 1) : Ignored w i ↔ i ≤ 14 := by
  simp only [Ignored, leading_iff] at hp ⊢; omega

theorem ignored_int1 (hp : bits w 31 29 = 1) : Ignored w i ↔ bits w 22 22 = 0 ∧ 5 ≤ i ∧ i ≤ 21 := by
  simp only [Ignored, leading_iff] at hp ⊢; omega

theorem ignored_zero (hp : bits w 31 28 = 0) : Ignored w i ↔ i ≤ 14 ∨ (i ≤ 22 ∧ bits w 27 23 ≠ 15) := by
  simp only [Ignored, leading_iff] at hp ⊢; omega

theorem ignored_fp3 (hp : bits w 31 27 = 3) : Ignored w i ↔ i ≤ 11 := by
  simp only [Ignored, leading_iff] at hp ⊢; omega

theorem ignored_fp2 (hp : bits w 31 26 = 5) :
    Ignored w i ↔
      i ≤ 11 ∨ (i = 21 ∧ ¬ (bits w 25 22 = 0 ∨ bits w 25 22 = 1 ∨ bits w 25 22 = 3)) ∨ (i = 16 ∧ bits w 25 22 ≠ 4) := by
  simp only [Ignored, leading_iff, List.mem_cons, List.not_mem_nil, or_false] at hp ⊢; omega

theorem ignored_fp1 (hp : bits w 31 25 = 9) : Ignored w i ↔ i ≤ 17 := by
  simp only [Ignored, leading_iff] at hp ⊢; omega

theorem not_ignored_other (hp : bits w 31 23 = 34 ∨ bits w 31 23 = 35 ∨ bits w 31 24 = 16) : ¬ Ignored w i := by
  simp only [Ignored, leading_iff] at hp ⊢; omega

end

/-! Each format's decoder uses no ignored bit. -/

theorem zeroTable_ignores_field {op n n' : Nat} (hop : op ≠ 15) :
    ofTable zeroTable op (fun mk => .ok (mk n')) = ofTable zeroTable op fun mk => .ok (mk n) := by
  obtain h | h | h : op < 15 ∨ (15 < op ∧ op < 20) ∨ 20 ≤ op := by omega
  · interval_cases op <;> rfl
  · obtain ⟨hlo, hhi⟩ := h
    interval_cases op <;> rfl
  · rw [ofTable_of_ge h, ofTable_of_ge h]

/-- The integer registers of the two fields of FP2 are used by the operations that have such an operand only (R88). -/
theorem fp2Table_ignores_reg {op : Nat} {x x' y y' : Reg} {f g : FReg} (hx : op = 0 ∨ op = 1 ∨ op = 3 → x' = x)
    (hy : op = 4 → y' = y) :
    ofTable fp2Table op (fun mk => .ok (mk x' f y' g)) = ofTable fp2Table op fun mk => .ok (mk x f y g) := by
  obtain h | h := Nat.lt_or_ge op 11
  · interval_cases op <;> simp [ofTable, fp2Table, hx, hy]
  · rw [ofTable_of_ge h, ofTable_of_ge h]

section
variable {w w' : Word} (h : Agrees w w')
include h

theorem decode_agrees_int3 (hp : bits w 31 31 = 1) : decode w' = decode w := by
  have hb {hi lo : Nat} (hhi : hi < 32) (hf : 21 ≤ lo ∨ hi ≤ 9) : bits w' hi lo = bits w hi lo :=
    h.bits_eq hhi fun i _ _ => by rw [ignored_int3 hp]; omega
  have hy : int3Y w' = int3Y w := by
    by_cases hm : bits w 21 21 = 0
    · simp only [int3Y, hb, hm, Nat.reduceLT, Nat.reduceLeDiff, true_or, or_true, if_true]
    · have hl : bits w' 20 5 = bits w 20 5 := h.bits_eq (by decide) fun i _ _ => by rw [ignored_int3 hp]; omega
      simp only [int3Y, hb, hl, Nat.reduceLT, Nat.reduceLeDiff, true_or, or_true]
  rw [decode_of_int3 hp, decode_of_int3 ((hb (by decide) (by decide)).trans hp)]
  simp only [decodeInt3, hb, hy, Nat.reduceLT, Nat.reduceLeDiff, true_or, or_true]

theorem decode_agrees_int2 (hp : bits w 31 30 = 1) : decode w' = decode w := by
  have hb {hi lo : Nat} (hhi : hi < 32) (hf : 15 ≤ lo) : bits w' hi lo = bits w hi lo :=
    h.bits_eq hhi fun i _ _ => by rw [ignored_int2 hp]; omega
  rw [decode_of_int2 hp, decode_of_int2 ((hb (by decide) (by decide)).trans hp)]
  simp only [decodeInt2, int2Regs, int2Count, hb, Nat.reduceLT, Nat.reduceLeDiff]

theorem decode_agrees_int1 (hp : bits w 31 29 = 1) : decode w' = decode w := by
  have hb {hi lo : Nat} (hhi : hi < 32) (hf : 22 ≤ lo ∨ hi ≤ 4) : bits w' hi lo = bits w hi lo :=
    h.bits_eq hhi fun i _ _ => by rw [ignored_int1 hp]; omega
  have hx : int1Target w' = int1Target w := by
    by_cases hm : bits w 22 22 = 0
    · simp only [int1Target, hb, hm, Nat.reduceLT, Nat.reduceLeDiff, true_or, or_true, if_true]
    · have hl : bits w' 21 0 = bits w 21 0 := h.bits_eq (by decide) fun i _ _ => by rw [ignored_int1 hp]; omega
      simp only [int1Target, hb, hl, Nat.reduceLT, Nat.reduceLeDiff, true_or, or_true]
  rw [decode_of_int1 hp, decode_of_int1 ((hb (by decide) (by decide)).trans hp)]
  simp only [decodeInt1, int1Reg, hb, hx, Nat.reduceLT, Nat.reduceLeDiff, true_or, or_true]

theorem decode_agrees_zero (hp : bits w 31 28 = 0) : decode w' = decode w := by
  have hb {hi lo : Nat} (hhi : hi < 32) (hf : 23 ≤ lo) : bits w' hi lo = bits w hi lo :=
    h.bits_eq hhi fun i _ _ => by rw [ignored_zero hp]; omega
  rw [decode_of_zero hp, decode_of_zero ((hb (by decide) (by decide)).trans hp), decodeZero_eq, decodeZero_eq,
    hb (by decide) (by decide)]
  by_cases hint : bits w 27 23 = 15
  · rw [h.bits_eq (hi := 22) (lo := 15) (by decide) fun i _ _ => by rw [ignored_zero hp]; omega]
  · exact zeroTable_ignores_field hint

theorem decode_agrees_fp3 (hp : bits w 31 27 = 3) : decode w' = decode w := by
  have hb {hi lo : Nat} (hhi : hi < 32) (hf : 12 ≤ lo) : bits w' hi lo = bits w hi lo :=
    h.bits_eq hhi fun i _ _ => by rw [ignored_fp3 hp]; omega
  rw [decode_of_fp3 hp, decode_of_fp3 ((hb (by decide) (by decide)).trans hp)]
  simp only [decodeFp3, hb, Nat.reduceLT, Nat.reduceLeDiff]

theorem decode_agrees_fp2 (hp : bits w 31 26 = 5) : decode w' = decode w := by
  have hb {hi lo : Nat} (hhi : hi < 32) (hf : 12 ≤ lo)
      (hx : 21 < lo ∨ hi < 21 ∨ bits w 25 22 = 0 ∨ bits w 25 22 = 1 ∨ bits w 25 22 = 3)
      (hy : 16 < lo ∨ hi < 16 ∨ bits w 25 22 = 4) : bits w' hi lo = bits w hi lo :=
    h.bits_eq hhi fun i _ _ => by rw [ignored_fp2 hp]; omega
  have hop : bits w' 25 22 = bits w 25 22 := hb (by decide) (by decide) (by omega) (by omega)
  have hf : bits w' 20 17 = bits w 20 17 := hb (by decide) (by decide) (by omega) (by omega)
  have hg : bits w' 15 12 = bits w 15 12 := hb (by decide) (by decide) (by omega) (by omega)
  rw [decode_of_fp2 hp, decode_of_fp2 ((hb (by decide) (by decide) (by omega) (by omega)).trans hp), decodeFp2_eq,
    decodeFp2_eq, hop, hf, hg]
  exact fp2Table_ignores_reg
    (fun hx => congrArg regOf (hb (by decide) (by decide) (.inr (.inr hx)) (by omega)))
    (fun hy => congrArg regOf (hb (by decide) (by decide) (by omega) (.inr (.inr hy))))

theorem decode_agrees_fp1 (hp : bits w 31 25 = 9) : decode w' = decode w := by
  have hb {hi lo : Nat} (hhi : hi < 32) (hf : 18 ≤ lo) : bits w' hi lo = bits w hi lo :=
    h.bits_eq hhi fun i _ _ => by rw [ignored_fp1 hp]; omega
  rw [decode_of_fp1 hp, decode_of_fp1 ((hb (by decide) (by decide)).trans hp)]
  simp only [decodeFp1, hb, Nat.reduceLT, Nat.reduceLeDiff]

/-- Words that agree where the bits matter decode alike. -/
theorem decode_agrees : decode w' = decode w := by
  obtain hp | hp | hp | hp | hp | hp | hp | hp := format_cases w
  · exact decode_agrees_int3 h hp
  · exact decode_agrees_int2 h hp
  · exact decode_agrees_int1 h hp
  · exact decode_agrees_zero h hp
  · exact decode_agrees_fp3 h hp
  · exact decode_agrees_fp2 h hp
  · exact decode_agrees_fp1 h hp
  · rw [h.eq_of_none_ignored fun _ => not_ignored_other hp]

end

/-! ## The values of the operand forms -/

/-- A literal in range is the sign extension of its field (R73, R77). -/
theorem ofInt_toInt_eq_signExtend {n : Nat} (b : BitVec n) : BitVec.ofInt 32 b.toInt = b.signExtend 32 := rfl

/-- The low five bits of a register, as a number, are its remainder by 32 (R127). -/
theorem toNat_low_five (w : Word) : w.toNat % 32 = (w.extractLsb' 0 5).toNat := by simp

end Sys2Proof.Laws

namespace Sys2Proof.Proofs
open Sys2Proof.Machine

/-- Settles O43: the round trip by the format of the instruction, well-formedness by the format of the word. -/
theorem decodingUndoesEncoding : Obligations.DecodingUndoesEncoding :=
  ⟨fun _ => Laws.decode_encode, fun _ _ => Laws.decode_wellFormed⟩

/-- Settles O44: `Laws.decode_eq_error` lists the rejected words of every format, and a step refuses what it cannot
decode. -/
theorem reservedWordsAreExactlyThoseListed : Obligations.ReservedWordsAreExactlyThoseListed := by
  have hword (w : Word) : decode w = .error .reservedEncoding ↔ ReservedWord w := by simp [Laws.decode_eq_error]
  have hform (w : Word) : decode w = .error .reservedOperandForm ↔ ReservedForm w := by simp [Laws.decode_eq_error]
  exact ⟨hword, hform, fun _ w he hf hr => Laws.step_of_decode_error he hf ((hword w).2 hr),
    fun _ w he hf hr => Laws.step_of_decode_error he hf ((hform w).2 hr)⟩

/-- Settles O45: no field that a format's decoder uses holds an ignored bit. -/
theorem ignoredBitsDoNotMatter : Obligations.IgnoredBitsDoNotMatter := fun _ _ h => Laws.decode_agrees h

/-- Settles O7: by the form of the operand. -/
theorem operandFormsHaveTheirValues : Obligations.OperandFormsHaveTheirValues := fun s =>
  ⟨fun _ => rfl, Laws.ofInt_toInt_eq_signExtend, fun r => Laws.toNat_low_five (s.readReg r),
    fun _ hn => Nat.mod_eq_of_lt hn, fun _ => rfl, fun b => congrArg (s.pc + ·) (Laws.ofInt_toInt_eq_signExtend b)⟩

end Sys2Proof.Proofs

/-! The three-operand integer instructions (40_int3.md): the rule they share, from which each follows by an equation for
its result and flags, and the laws of words that the carry chains and the division laws rest on. -/

namespace Sys2Proof.Machine

/-! ## Writing a result back (R25, R100) -/

/-- To replace the flags in force and then write one register changes these two things only. -/
theorem State.changes_writeBack (s : State) (fl : Flags) (z : Reg) (r : Word) :
    Changes s ((s.setFlags fl).writeReg z r) [z] fl [] [] 0 := by
  have hregs : OnlyRegs s ((s.setFlags fl).writeReg z r) [z] := by
    refine ⟨fun k hk => ?_, fun hm => ?_, fun hm => ?_⟩
    · rw [State.readReg_writeReg_other _ r (by simpa using hk), State.setFlags_readReg]
    · rw [State.writeReg_xs_of_user _ z r (by simpa using hm), State.setFlags_xs]
    · rw [State.writeReg_xu_of_supervisor _ z r (by simpa using hm), State.setFlags_xu]
  have hflags : FlagsBecome s ((s.setFlags fl).writeReg z r) fl := by
    refine ⟨by simp, fun hm => ?_, fun hm => ?_⟩ <;> simp [State.setFlags, State.setFlagsOf, hm]
  exact ⟨hregs, hflags, fun j _ => State.readF_congr (by simp) j, ⟨by simp, by simp, by simp⟩, by simp,
    ⟨by simp, by simp, by simp⟩, by simp [SameRest]⟩

theorem int3_givesReg (f : Word → Word → Flags → Word × Flags) (x : Reg) (y : Src) (z : Reg) (s : State) :
    GivesReg (int3 f x y z s) s z (f (s.readReg x) (s.srcValue y) s.flags).1
      (f (s.readReg x) (s.srcValue y) s.flags).2 :=
  ⟨_, rfl, State.readReg_writeReg_same _ _ _, s.changes_writeBack _ _ _⟩

/-- What an instruction that completes in one register leaves to read. -/
theorem GivesReg.exists_next {out : Result State} {s : State} {z : Reg} {r : Word} {fl : Flags}
    (h : GivesReg out s z r fl) :
    ∃ t, out = .next t ∧ t.readReg z = r ∧ t.flags = fl ∧ ∀ k, k ≠ z → t.readReg k = s.readReg k := by
  obtain ⟨t, hout, hz, ⟨hregs, -⟩, ⟨hflags, -⟩, -⟩ := h
  exact ⟨t, hout, hz, hflags, fun k hk => hregs k (by simpa using hk)⟩

/-! ## The flags of a result, in the terms of the statements (R34) -/

theorem Flags.setZN_eq_zn (fl : Flags) (r : Word) : fl.setZN r = zn fl r := by
  simp [Flags.setZN_eq, zn, BitVec.msb_eq_getLsbD_last]

theorem Flags.setZNV_eq_znv (fl : Flags) (r : Word) (v : Bool) : fl.setZNV r v = znv fl r v := by
  simp only [Flags.setZNV, Flags.setZN_eq_zn, znv]

theorem Flags.setZNVC_eq_znvc (fl : Flags) (o : Alu) : fl.setZNVC o = znvc fl o.value o.v o.c := by
  simp only [Flags.setZNVC, Flags.setZN_eq_zn, znvc]

/-! ## The rule of the format, by the flags that an instruction writes -/

section
variable {mk : Reg → Src → Reg → Instr} {op : Nat}

/-- An instruction of the format meets the rule that its function of the operands and the flags gives. -/
theorem Int3Rule.of_int3 {f : Word → Word → Flags → Word × Flags} {res : Word → Word → Flags → Word}
    {fl : Word → Word → Flags → Flags} (hop : op < 16) (henc : ∀ x y z, encode (mk x y z) = encInt3 op x y z)
    (hexec : ∀ x y z s, exec (mk x y z) s = int3 f x y z s) (hf : ∀ a b g, f a b g = (res a b g, fl a b g)) :
    Int3Rule mk op res fl := by
  refine fun x y z s => ⟨fun _ => ?_, ?_⟩
  · rw [henc]
    exact Laws.encInt3_op hop
  · have h := int3_givesReg f x y z s
    rwa [hf, ← hexec] at h

theorem Int3Rule.of_valueZN (g : Word → Word → Word) {r : Word → Word → Word} (hg : ∀ a b, g a b = r a b)
    (hop : op < 16 := by decide) (henc : ∀ x y z, encode (mk x y z) = encInt3 op x y z := by intros; rfl)
    (hexec : ∀ x y z s, exec (mk x y z) s = int3 (valueZN g) x y z s := by intros; rfl) :
    Int3Rule mk op (fun a b _ => r a b) fun a b fl => zn fl (r a b) :=
  .of_int3 hop henc hexec fun a b _ => by rw [valueZN, hg, Flags.setZN_eq_zn]

theorem Int3Rule.of_valueZNV (g : Word → Word → Word × Bool) {r : Word → Word → Word} {v : Word → Word → Bool}
    (hg : ∀ a b, g a b = (r a b, v a b))
    (hop : op < 16 := by decide) (henc : ∀ x y z, encode (mk x y z) = encInt3 op x y z := by intros; rfl)
    (hexec : ∀ x y z s, exec (mk x y z) s = int3 (valueZNV g) x y z s := by intros; rfl) :
    Int3Rule mk op (fun a b _ => r a b) fun a b fl => znv fl (r a b) (v a b) :=
  .of_int3 hop henc hexec fun a b _ => by rw [valueZNV, hg, Flags.setZNV_eq_znv]

theorem Int3Rule.of_valueZNVC (g : Word → Word → Bool → Alu) {r : Word → Word → Flags → Word}
    {v c : Word → Word → Flags → Bool} (hg : ∀ a b fl, g a b fl.c = ⟨r a b fl, v a b fl, c a b fl⟩)
    (hop : op < 16 := by decide) (henc : ∀ x y z, encode (mk x y z) = encInt3 op x y z := by intros; rfl)
    (hexec : ∀ x y z s, exec (mk x y z) s = int3 (valueZNVC g) x y z s := by intros; rfl) :
    Int3Rule mk op r fun a b fl => znvc fl (r a b fl) (v a b fl) (c a b fl) :=
  .of_int3 hop henc hexec fun a b fl => by rw [valueZNVC, hg, Flags.setZNVC_eq_znvc]

end

/-! ## Sums and differences (R101) -/

theorem vFlag_eq_overflows (t : Int) : Config.vFlag t = overflows t := (Bool.decide_or _ _).symm

theorem aluAdd_eq (a b : Word) (c : Bool) :
    aluAdd a b c = ⟨a + b + BitVec.ofNat 32 c.toNat, overflows (a.toInt + b.toInt + c.toNat),
      decide (a.toNat + b.toNat + c.toNat ≥ 2 ^ 32)⟩ := by
  have hvalue : BitVec.ofNat 32 (a.toNat + b.toNat + c.toNat) = a + b + BitVec.ofNat 32 c.toNat := by
    simp [BitVec.ofNat_add]
  rw [aluAdd, hvalue, vFlag_eq_overflows]
  rfl

theorem aluSub_eq (a b : Word) (k : Bool) :
    aluSub a b k = ⟨a - b - BitVec.ofNat 32 k.toNat, overflows (a.toInt - b.toInt - k.toNat),
      decide (b.toNat + k.toNat ≤ a.toNat)⟩ := by
  have hvalue : BitVec.ofInt 32 ((a.toNat : Int) - b.toNat - k.toNat) = a - b - BitVec.ofNat 32 k.toNat := by
    simp [Int.sub_eq_add_neg, BitVec.ofInt_add, BitVec.ofInt_neg, BitVec.sub_eq_add_neg]
  have hborrow : Config.noBorrowFlag ((a.toNat : Int) - b.toNat - k.toNat) = decide (b.toNat + k.toNat ≤ a.toNat) :=
    decide_eq_decide.2 (by omega)
  rw [aluSub, hvalue, hborrow, vFlag_eq_overflows]

/-! ## Products (R109 to R112) -/

theorem mulLow_eq (a b : Word) : mulLow a b = a * b := by simp [mulLow, BitVec.ofNat_mul]

theorem mulsLow_eq (a b : Word) : mulsLow a b = a * b := by simp [mulsLow, BitVec.ofInt_mul]

/-- The high word of a 64-bit value, as a number. -/
theorem extract_high_eq (p : Word64) : p.extractLsb' 32 32 = BitVec.ofNat 32 (p.toNat / 2 ^ 32) := by
  apply BitVec.eq_of_toNat_eq
  rw [BitVec.extractLsb'_toNat, BitVec.toNat_ofNat, Nat.shiftRight_eq_div_pow]

/-- The product of two words fits 64 bits. -/
theorem mulHigh_eq (a b : Word) : mulHigh a b = (a.setWidth 64 * b.setWidth 64).extractLsb' 32 32 := by
  have hlt : a.toNat * b.toNat < 2 ^ 64 := by
    calc a.toNat * b.toNat < 2 ^ 32 * 2 ^ 32 := Nat.mul_lt_mul'' a.isLt b.isLt
      _ = 2 ^ 64 := by decide
  have ha : a.toNat < 2 ^ 64 := a.isLt.trans (by decide)
  have hb : b.toNat < 2 ^ 64 := b.isLt.trans (by decide)
  rw [extract_high_eq, BitVec.toNat_mul, BitVec.toNat_setWidth, BitVec.toNat_setWidth, Nat.mod_eq_of_lt ha,
    Nat.mod_eq_of_lt hb, Nat.mod_eq_of_lt hlt, mulHigh]

/-- A sign extension is the word of the signed reading, and words multiply as integers do. -/
theorem mulsHigh_eq (a b : Word) : mulsHigh a b = (a.signExtend 64 * b.signExtend 64).extractLsb' 32 32 := by
  have hprod : a.signExtend 64 * b.signExtend 64 = BitVec.ofInt 64 (a.toInt * b.toInt) := (BitVec.ofInt_mul _ _).symm
  rw [hprod, extract_high_eq, BitVec.toNat_ofInt]
  rfl

/-! ## Quotients and remainders (R113 to R117) -/

theorem divU_eq (a b : Word) : divU a b = (if b = 0 then 0 else a / b, decide (b = 0)) := by
  by_cases hb : b = 0
  · simp [divU, hb, Config.zeroDivisor]
  · have hvalue : BitVec.ofNat 32 (a.toNat / b.toNat) = a / b := by
      rw [← BitVec.toNat_udiv, BitVec.ofNat_toNat, BitVec.setWidth_eq]
    rw [divU, if_neg hb, if_neg hb, decide_eq_false hb, hvalue]

theorem modU_eq (a b : Word) : modU a b = (if b = 0 then 0 else a % b, decide (b = 0)) := by
  by_cases hb : b = 0
  · simp [modU, hb, Config.zeroDivisor]
  · have hvalue : BitVec.ofNat 32 (a.toNat % b.toNat) = a % b := by
      rw [← BitVec.toNat_umod, BitVec.ofNat_toNat, BitVec.setWidth_eq]
    rw [modU, if_neg hb, if_neg hb, decide_eq_false hb, hvalue]

/-- But for the one pair whose quotient does not fit, the quotient of two words is that of their signed readings
(R115). -/
theorem toInt_sdiv_of_fits {a b : Word} (h : ¬ (a = 0x80000000 ∧ b = 0xFFFFFFFF)) :
    (a.sdiv b).toInt = a.toInt.tdiv b.toInt :=
  BitVec.toInt_sdiv_of_ne_or_ne a b (not_and_or.1 h)

theorem divS_eq (a b : Word) :
    divS a b = (if b = 0 then 0 else a.sdiv b, decide (b = 0 ∨ (a = 0x80000000 ∧ b = 0xFFFFFFFF))) := by
  by_cases hb : b = 0
  · simp [divS, hb, Config.zeroDivisor]
  by_cases hfits : a = 0x80000000 ∧ b = 0xFFFFFFFF
  · obtain ⟨rfl, rfl⟩ := hfits
    decide
  · have hvalue : BitVec.ofInt 32 (a.toInt.tdiv b.toInt) = a.sdiv b := by
      rw [← toInt_sdiv_of_fits hfits, BitVec.ofInt_toInt]
    rw [divS, if_neg hb, if_neg hfits, if_neg hb, decide_eq_false (not_or.2 ⟨hb, hfits⟩), Config.signedQuotient, hvalue]

theorem modS_eq_srem (a b : Word) : modS a b = (if b = 0 then 0 else a.srem b, decide (b = 0)) := by
  rw [modS_eq, ← BitVec.toInt_srem, BitVec.ofInt_toInt]
  by_cases hb : b = 0
  · simp only [hb, if_true, decide_true]
  · rw [if_neg hb, if_neg hb, decide_eq_false hb]

end Sys2Proof.Machine

namespace Sys2Proof.Proofs
open Sys2Proof.Machine

/-- Settles O10: `aluAdd` and `aluSub` with the carry each instruction takes. -/
theorem addAndSubtractSetOverflowAndCarry : Obligations.AddAndSubtractSetOverflowAndCarry :=
  ⟨.of_valueZNVC (fun a b _ => aluAdd a b false) fun a b _ => by simp [aluAdd_eq],
    .of_valueZNVC (fun a b _ => aluSub a b false) fun a b _ => by simp [aluSub_eq],
    .of_valueZNVC aluAdd fun a b fl => aluAdd_eq a b fl.c,
    .of_valueZNVC (fun a b c => aluSub a b (!c)) fun a b fl => aluSub_eq a b (!fl.c)⟩

/-- Settles O11: the products of numbers are the products of the words, extended where the high word is wanted. -/
theorem multiplyInstructionsGiveTheirWords : Obligations.MultiplyInstructionsGiveTheirWords :=
  ⟨.of_valueZN mulLow mulLow_eq, .of_valueZN mulHigh mulHigh_eq, .of_valueZN mulsLow mulsLow_eq,
    .of_valueZN mulsHigh mulsHigh_eq⟩

/-- Settles O12: by the divisor, and for `divs` by whether the quotient fits. -/
theorem divideInstructionsGiveQuotientsAndRemainders : Obligations.DivideInstructionsGiveQuotientsAndRemainders :=
  ⟨.of_valueZNV divU divU_eq, .of_valueZNV divS divS_eq, .of_valueZNV modU modU_eq, .of_valueZNV modS modS_eq_srem⟩

/-- Settles O9: the operations are the bitwise ones of words. -/
theorem bitwiseInstructionsGiveTheirResults : Obligations.BitwiseInstructionsGiveTheirResults :=
  ⟨.of_valueZN (· &&& ·) fun _ _ => rfl, .of_valueZN (· ||| ·) fun _ _ => rfl, .of_valueZN (· ^^^ ·) fun _ _ => rfl⟩

end Sys2Proof.Proofs

/-! The carry chains on two words (R101, R107, R108) and the division laws (R118), from the instructions' rules. -/

namespace Sys2Proof.Machine

/-! ## Two instructions in a row -/

/-- The second instruction reads what it would have read before the first, but for the flags, and leaves the first one's
destination. -/
theorem Int3Rule.chain {mk mk' : Reg → Src → Reg → Instr} {op op' : Nat} {res res' : Word → Word → Flags → Word}
    {fl fl' : Word → Word → Flags → Flags} (h : Int3Rule mk op res fl) (h' : Int3Rule mk' op' res' fl')
    {xl xh yl yh zl zh : Reg} (s : State) (hz : zl ≠ zh) (hx : xh ≠ zl) (hy : yh ≠ zl) :
    ∃ t u, exec (mk xl (.reg yl) zl) s = .next t ∧ exec (mk' xh (.reg yh) zh) t = .next u ∧
      u.readReg zl = res (s.readReg xl) (s.readReg yl) s.flags ∧
      u.readReg zh = res' (s.readReg xh) (s.readReg yh) (fl (s.readReg xl) (s.readReg yl) s.flags) ∧
      u.flags = fl' (s.readReg xh) (s.readReg yh) (fl (s.readReg xl) (s.readReg yl) s.flags) := by
  obtain ⟨t, ht, htz, htf, htk⟩ := (h xl (.reg yl) zl s).2.exists_next
  obtain ⟨u, hu, huz, huf, huk⟩ := (h' xh (.reg yh) zh t).2.exists_next
  simp only [State.srcValue, htf, htk xh hx, htk yh hy] at huz huf
  exact ⟨t, u, ht, hu, (huk zl hz).trans htz, huz, huf⟩

/-! ## Sums and differences of pairs of words -/

/-- A pair of words as a number, the high word first (R55). -/
theorem toNat_append_words (h l : Word) : (h ++ l).toNat = h.toNat * 2 ^ 32 + l.toNat := by
  rw [BitVec.toNat_append, ← Nat.shiftLeft_add_eq_or_of_lt l.isLt, Nat.shiftLeft_eq]

/-- The carry out of the low words. -/
def carryOut (l l' : Word) : Bool := decide (l.toNat + l'.toNat ≥ 2 ^ 32)

/-- The borrow out of the low words. -/
def borrowOut (l l' : Word) : Bool := !decide (l'.toNat ≤ l.toNat)

/-- The carry is the part of the low sum that its word does not hold. -/
theorem toNat_add_carryOut (l l' : Word) :
    (l + l').toNat + (carryOut l l').toNat * 2 ^ 32 = l.toNat + l'.toNat := by
  rw [BitVec.toNat_add, carryOut]
  by_cases h : l.toNat + l'.toNat ≥ 2 ^ 32
  · rw [decide_eq_true h, Bool.toNat_true]
    omega
  · rw [decide_eq_false h, Bool.toNat_false]
    omega

/-- The borrow is what the low difference lacks. -/
theorem toNat_sub_borrowOut (l l' : Word) :
    (l - l').toNat + l'.toNat = l.toNat + (borrowOut l l').toNat * 2 ^ 32 := by
  rw [BitVec.toNat_sub, borrowOut]
  by_cases h : l'.toNat ≤ l.toNat
  · rw [decide_eq_true h, Bool.not_true, Bool.toNat_false]
    omega
  · rw [decide_eq_false h, Bool.not_false, Bool.toNat_true]
    omega

theorem append_add_append (h l h' l' : Word) :
    (h + h' + BitVec.ofNat 32 (carryOut l l').toNat) ++ (l + l') = (h ++ l) + (h' ++ l') := by
  have hlow := toNat_add_carryOut l l'
  apply BitVec.eq_of_toNat_eq
  simp only [toNat_append_words, BitVec.toNat_add, BitVec.toNat_ofNat] at hlow ⊢
  omega

theorem carry_append_iff (h l h' l' : Word) :
    h.toNat + h'.toNat + (carryOut l l').toNat ≥ 2 ^ 32 ↔ 2 ^ 64 ≤ (h ++ l).toNat + (h' ++ l').toNat := by
  have hlow := toNat_add_carryOut l l'
  rw [toNat_append_words, toNat_append_words]
  omega

theorem append_sub_append (h l h' l' : Word) :
    (h - h' - BitVec.ofNat 32 (borrowOut l l').toNat) ++ (l - l') = (h ++ l) - (h' ++ l') := by
  have hlow := toNat_sub_borrowOut l l'
  apply BitVec.eq_of_toNat_eq
  simp only [toNat_append_words, BitVec.toNat_sub, BitVec.toNat_ofNat] at hlow ⊢
  omega

theorem no_borrow_append_iff (h l h' l' : Word) :
    h'.toNat + (borrowOut l l').toNat ≤ h.toNat ↔ (h' ++ l').toNat ≤ (h ++ l).toNat := by
  have hlow := toNat_sub_borrowOut l l'
  rw [toNat_append_words, toNat_append_words]
  omega

/-! ## The division laws (R118) -/

theorem udiv_umod_law (a : Word) {b : Word} (hb : b ≠ 0) :
    a.toNat = b.toNat * (a / b).toNat + (a % b).toNat ∧ (a % b).toNat < b.toNat := by
  have hpos : 0 < b.toNat := Nat.pos_of_ne_zero fun h => hb (BitVec.eq_of_toNat_eq h)
  rw [BitVec.toNat_udiv, BitVec.toNat_umod]
  exact ⟨(Nat.div_add_mod _ _).symm, Nat.mod_lt _ hpos⟩

theorem sdiv_srem_law {a b : Word} (h : ¬ (a = 0x80000000 ∧ b = 0xFFFFFFFF)) :
    a.toInt = b.toInt * (a.sdiv b).toInt + (a.srem b).toInt := by
  rw [toInt_sdiv_of_fits h, BitVec.toInt_srem]
  exact (Int.mul_tdiv_add_tmod _ _).symm

theorem natAbs_srem_lt (a : Word) {b : Word} (hb : b ≠ 0) : (a.srem b).toInt.natAbs < b.toInt.natAbs := by
  have hne : b.toInt ≠ 0 := fun h => hb (BitVec.eq_of_toInt_eq h)
  rw [BitVec.toInt_srem, Int.natAbs_tmod]
  exact Nat.mod_lt _ (Int.natAbs_pos.2 hne)

/-- A remainder that is not 0 has the sign of the dividend (R117). -/
theorem srem_sign (a b : Word) : a.srem b = 0 ∨ ((a.srem b).toInt < 0 ↔ a.toInt < 0) := by
  have hsign := Int.sign_tmod a.toInt b.toInt
  by_cases hdvd : b.toInt ∣ a.toInt
  · refine .inl (BitVec.eq_of_toInt_eq ?_)
    rw [BitVec.toInt_srem, Int.tmod_eq_zero_of_dvd hdvd]
    rfl
  · rw [if_neg hdvd] at hsign
    exact .inr (by rw [BitVec.toInt_srem, ← Int.sign_neg_iff, hsign, Int.sign_neg_iff])

end Sys2Proof.Machine

namespace Sys2Proof.Proofs
open Sys2Proof.Machine

/-- Settles O54: the C of the low words is their carry, or that they have no borrow, which the high words take in. -/
theorem carryChainsGiveWideSumsAndDifferences : Obligations.CarryChainsGiveWideSumsAndDifferences := by
  obtain ⟨hadd, hsub, haddc, hsubc⟩ := addAndSubtractSetOverflowAndCarry
  refine fun xl xh yl yh zl zh s _ _ hz hx hy => ⟨?_, ?_⟩
  · obtain ⟨t, u, ht, hu, hl, hh, hf⟩ := hadd.chain haddc (xl := xl) (yl := yl) s hz hx hy
    refine ⟨t, u, ht, hu, ?_, ?_⟩
    · rw [hl, hh]
      exact append_add_append _ _ _ _
    · rw [hf]
      exact decide_eq_true_iff.trans (carry_append_iff _ _ _ _)
  · obtain ⟨t, u, ht, hu, hl, hh, hf⟩ := hsub.chain hsubc (xl := xl) (yl := yl) s hz hx hy
    refine ⟨t, u, ht, hu, ?_, ?_⟩
    · rw [hl, hh]
      exact append_sub_append _ _ _ _
    · rw [hf]
      exact decide_eq_true_iff.trans (no_borrow_append_iff _ _ _ _)

/-- Settles O55: the results are the quotients and remainders of words, and the division laws are theirs. -/
theorem quotientAndRemainderRecomposeTheDividend : Obligations.QuotientAndRemainderRecomposeTheDividend := by
  obtain ⟨hdiv, hdivs, hmod, hmods⟩ := divideInstructionsGiveQuotientsAndRemainders
  refine fun x y z s hb => ⟨?_, ?_⟩
  · obtain ⟨t, ht, hq, -⟩ := (hdiv x y z s).2.exists_next
    obtain ⟨u, hu, hr, -⟩ := (hmod x y z s).2.exists_next
    refine ⟨t, u, ht, hu, ?_⟩
    rw [hq.trans (if_neg hb), hr.trans (if_neg hb)]
    exact udiv_umod_law _ hb
  · obtain ⟨t, ht, hq, hv, -⟩ := (hdivs x y z s).2.exists_next
    obtain ⟨u, hu, hr, -⟩ := (hmods x y z s).2.exists_next
    refine ⟨t, u, ht, hu, ?_⟩
    rw [hq.trans (if_neg hb), hr.trans (if_neg hb), hv]
    refine ⟨sdiv_srem_law, fun ⟨ha, hb'⟩ => ?_, natAbs_srem_lt _ hb, srem_sign _ _⟩
    rw [ha, hb']
    exact ⟨by decide, rfl, by decide⟩

end Sys2Proof.Proofs

/-! The two-operand integer instructions (41_int2.md): the bits that leave a shift or pass around in a rotation, the
rule that all six share, and what a completed load, store, copy, comparison and bit test leave unchanged. -/

namespace Sys2Proof.Machine

/-! ## The bits that leave a word (R127) -/

theorem nat_ne_zero_iff_testBit (x : Nat) : x ≠ 0 ↔ ∃ i, x.testBit i = true :=
  ⟨Nat.exists_testBit_of_ne_zero, by rintro ⟨i, hi⟩ rfl; simp at hi⟩

/-- A search among the 32 bits of a word finds what a search among all bits of its number finds: those beyond are 0. -/
theorem any_bits_iff (v : Word) (p : Nat → Bool) :
    ((List.range 32).any fun i => p i && v.getLsbD i) = true ↔ ∃ i, p i = true ∧ v.toNat.testBit i = true := by
  simp only [List.any_eq_true, List.mem_range, Bool.and_eq_true, BitVec.testBit_toNat]
  exact ⟨fun ⟨i, _, hi⟩ => ⟨i, hi⟩, fun ⟨i, hi⟩ => ⟨i, BitVec.lt_of_getLsbD hi.2, hi⟩⟩

/-- The bits `v[31:32-n]` are the quotient by `2 ^ (32 - n)`. -/
theorem anyLeft_eq (v : Word) (n : Nat) : anyLeft v n = decide (v.toNat / 2 ^ (32 - n) ≠ 0) := by
  rw [Bool.eq_iff_iff, anyLeft, any_bits_iff, decide_eq_true_iff, nat_ne_zero_iff_testBit]
  simp only [decide_eq_true_iff, Nat.testBit_div_two_pow]
  constructor
  · rintro ⟨i, hi, hbit⟩
    exact ⟨i - (32 - n), by rwa [Nat.sub_add_cancel hi]⟩
  · rintro ⟨i, hbit⟩
    exact ⟨i + (32 - n), Nat.le_add_left _ _, hbit⟩

/-- The bits `v[n-1:0]` are the remainder by `2 ^ n`. -/
theorem anyRight_eq (v : Word) (n : Nat) : anyRight v n = decide (v.toNat % 2 ^ n ≠ 0) := by
  rw [Bool.eq_iff_iff, anyRight, any_bits_iff, decide_eq_true_iff, nat_ne_zero_iff_testBit]
  simp only [Nat.testBit_mod_two_pow, Bool.and_eq_true]

/-- V and C of a move to the left. A count of 0 needs no case of its own for V: no bit lies above bit 31. -/
theorem leftFlags_eq (v : Word) (n : Nat) : Config.leftFlags v n = (anyLeft v n, lastLeft v n) := by
  rw [anyLeft_eq, Config.leftFlags, lastLeft]
  by_cases hn : n = 0
  · subst hn
    simp [Nat.div_eq_of_lt v.isLt]
  · simp [hn]

/-- V and C of a move to the right. A count of 0 needs no case of its own for V: no bit lies below bit 0. -/
theorem rightFlags_eq (v : Word) (n : Nat) : Config.rightFlags v n = (anyRight v n, lastRight v n) := by
  rw [anyRight_eq, Config.rightFlags, lastRight]
  by_cases hn : n = 0
  · subst hn
    simp [Nat.mod_one]
  · simp [hn]

/-! ## The shifts and rotations (R128 to R133) -/

theorem aluShl_eq (v : Word) (n : Nat) : aluShl v n = ⟨v <<< n, anyLeft v n, lastLeft v n⟩ := by
  rw [aluShl, leftFlags_eq, Alu.of]

theorem aluShr_eq (v : Word) (n : Nat) : aluShr v n = ⟨v >>> n, anyRight v n, lastRight v n⟩ := by
  rw [aluShr, rightFlags_eq, Alu.of]

theorem aluAsr_eq (v : Word) (n : Nat) : aluAsr v n = ⟨v.sshiftRight n, anyRight v n, lastRight v n⟩ := by
  rw [aluAsr, rightFlags_eq, Alu.of]

theorem aluRol_eq_rotateLeft (v : Word) {n : Nat} (c : Bool) (hn : n < 32) :
    aluRol v n c = ⟨v.rotateLeft n, anyLeft v n, lastLeft v n⟩ := by
  rw [aluRol_eq, leftFlags_eq, BitVec.rotateLeft_def, Nat.mod_eq_of_lt hn, Alu.of]

theorem aluRor_eq_rotateRight (v : Word) {n : Nat} (c : Bool) (hn : n < 32) :
    aluRor v n c = ⟨v.rotateRight n, anyRight v n, lastRight v n⟩ := by
  rw [aluRor_eq, rightFlags_eq, BitVec.rotateRight_def, Nat.mod_eq_of_lt hn, Alu.of]

/-! ## The rules of the format -/

theorem State.countValue_lt (s : State) (y : Count) : s.countValue y < 32 := by
  cases y with
  | reg r => exact Nat.mod_lt _ (by decide)
  | lit n => exact Nat.mod_lt _ (by decide)

/-- The fixed bits of an instruction's row are bits of its word. -/
theorem EncodesAs.of_fixedBits {i : Instr} {hi lo value : Nat} (h : Laws.FixedBits.Statement i)
    (hf : (hi, lo, value) ∈ Laws.fixedBits i := by simp [Laws.fixedBits]) : EncodesAs i hi lo value :=
  fun hw => h hw _ hf

theorem shiftBy_givesReg (f : Word → Nat → Bool → Alu) (x : Reg) (y : Count) (s : State) :
    GivesReg (shiftBy f x y s) s x (f (s.readReg x) (s.countValue y) s.flags.c).value
      (s.flags.setZNVC (f (s.readReg x) (s.countValue y) s.flags.c)) :=
  ⟨_, rfl, State.readReg_writeReg_same _ _ _, s.changes_writeBack _ _ _⟩

/-- A shift or rotation meets the rule that its function of the word and the count gives, for the counts there are. -/
theorem ShiftRule.of_shiftBy {mk : Reg → Count → Instr} {op : Nat} {f : Word → Nat → Bool → Alu}
    {res : Word → Nat → Word} {v c : Word → Nat → Bool} (hbits : ∀ x y, Laws.FixedBits.Statement (mk x y))
    (hf : ∀ a n k, n < 32 → f a n k = ⟨res a n, v a n, c a n⟩)
    (hrow : ∀ x y, Laws.fixedBits (mk x y) = [(31, 26, 16 + op)] := by intros; rfl)
    (hexec : ∀ x y s, exec (mk x y) s = shiftBy f x y s := by intros; rfl) : ShiftRule mk op res v c := by
  refine fun x y s => ⟨.of_fixedBits (hbits x y) (by simp [hrow]), ?_⟩
  have h := shiftBy_givesReg f x y s
  rwa [hf _ _ _ (s.countValue_lt y), Flags.setZNVC_eq_znvc, ← hexec] at h

/-! ## Frames of one flag write, one register write and one store -/

theorem State.setFlags_self (s : State) : s.setFlags s.flags = s := by
  cases hm : s.mode <;> rw [State.setFlags, State.flags, hm] <;> rfl

theorem State.changes_writeReg (s : State) (z : Reg) (r : Word) : Changes s (s.writeReg z r) [z] s.flags [] [] 0 := by
  simpa only [s.setFlags_self] using s.changes_writeBack s.flags z r

/-- To replace the flags in force changes nothing else. -/
theorem State.changes_setFlags (s : State) (fl : Flags) : Changes s (s.setFlags fl) [] fl [] [] 0 := by
  have hflags : FlagsBecome s (s.setFlags fl) fl := by
    refine ⟨by simp, fun hm => ?_, fun hm => ?_⟩ <;> simp [State.setFlags, State.setFlagsOf, hm]
  exact ⟨⟨by simp, by simp, by simp⟩, hflags, fun j _ => State.readF_congr (by simp) j, ⟨by simp, by simp, by simp⟩,
    by simp, ⟨by simp, by simp, by simp⟩, by simp [SameRest]⟩

/-- A store changes its word and the record of stores only (R53, R67). -/
theorem State.changes_of_writeMem {s t : State} {a v : Word} (h : s.writeMem a v = .next t) :
    Changes s t [] s.flags [] [(a, v)] 0 := by
  obtain ⟨-, rfl⟩ := State.writeMem_eq_next.1 h
  have hstores : Stores s { s with mem := s.mem.writeWord a v, storesLast := a :: s.storesLast } [(a, v)] := by
    refine ⟨fun p hp => ?_, fun k hk => ?_, rfl⟩
    · obtain rfl := List.mem_singleton.1 hp
      exact s.mem.readWord_writeWord_same a v
    · exact s.mem.readByte_writeWord_other a v (hk _ (List.mem_singleton_self _))
  exact ⟨⟨fun _ _ => rfl, fun _ => rfl, fun _ => rfl⟩, ⟨rfl, fun _ => rfl, fun _ => rfl⟩, fun _ _ => rfl, hstores, rfl,
    ⟨rfl, rfl, rfl⟩, rfl, rfl, rfl, rfl, rfl⟩

/-! ## Load, copy, comparison and bit test (R122, R124, R125, R126) -/

theorem execLd_of_readable {x y : Reg} {s : State} {v : Word} (h : Readable s (s.readReg y) v) :
    execLd x y s = .next ((s.setFlags (s.flags.setZN v)).writeReg x v) := by
  rw [execLd, State.readMem_eq_next.2 h, andThen_next]

theorem execLd_givesReg {x y : Reg} {s : State} {v : Word} (h : Readable s (s.readReg y) v) :
    GivesReg (execLd x y s) s x v (zn s.flags v) := by
  rw [execLd_of_readable h, Flags.setZN_eq_zn]
  exact ⟨_, rfl, State.readReg_writeReg_same _ _ _, s.changes_writeBack _ _ _⟩

theorem execCp_givesReg (x y : Reg) (s : State) : GivesReg (execCp x y s) s y (s.readReg x) s.flags :=
  ⟨_, rfl, s.readReg_writeReg_same _ _, s.changes_writeReg _ _⟩

theorem execCmp_givesFlags (x y : Reg) (s : State) :
    GivesFlags (execCmp x y s) s { s.flags with
      z := decide (s.readReg x = s.readReg y), n := decide ((s.readReg y).toInt > (s.readReg x).toInt) } := by
  simp only [execCmp, cmpGreater_eq]
  exact ⟨_, rfl, s.changes_setFlags _⟩

theorem execBit_givesFlags (x y : Reg) (s : State) :
    GivesFlags (execBit x y s) s (zn s.flags (s.readReg x &&& s.readReg y)) := by
  rw [execBit, Flags.setZN_eq_zn]
  exact ⟨_, rfl, s.changes_setFlags _⟩

end Sys2Proof.Machine

namespace Sys2Proof.Proofs
open Sys2Proof.Machine

/-- Settles O16: the moved words of the three instructions, which share V and C. -/
theorem leftShiftsAndRotationSetOverflowAndCarry : Obligations.LeftShiftsAndRotationSetOverflowAndCarry :=
  ⟨.of_shiftBy (f := fun v n _ => aluAsl v n) Laws.FixedBits.asl fun a n _ _ => (aluAsl_eq a n).trans (aluShl_eq a n),
    .of_shiftBy (f := fun v n _ => aluShl v n) Laws.FixedBits.shl fun a n _ _ => aluShl_eq a n,
    .of_shiftBy Laws.FixedBits.rol fun a _ c hn => aluRol_eq_rotateLeft a c hn⟩

/-- Settles O17: the moved words of the three instructions, which share V and C. -/
theorem rightShiftsAndRotationSetOverflowAndCarry : Obligations.RightShiftsAndRotationSetOverflowAndCarry :=
  ⟨.of_shiftBy (f := fun v n _ => aluAsr v n) Laws.FixedBits.asr fun a n _ _ => aluAsr_eq a n,
    .of_shiftBy (f := fun v n _ => aluShr v n) Laws.FixedBits.shr fun a n _ _ => aluShr_eq a n,
    .of_shiftBy Laws.FixedBits.ror fun a _ c hn => aluRor_eq_rotateRight a c hn⟩

/-- Settles O13: the read answers the word, which is then written back. -/
theorem loadWordReadsMemory : Obligations.LoadWordReadsMemory := fun x y _ _ =>
  have hbits := Laws.FixedBits.ld x y
  ⟨.of_fixedBits hbits, .of_fixedBits hbits, execLd_givesReg⟩

/-- Settles O14: an admitted store completes, and what a completed store changes is its word. -/
theorem storeWordWritesOneWord : Obligations.StoreWordWritesOneWord := by
  intro x y s
  have hbits := Laws.FixedBits.st x y
  refine ⟨.of_fixedBits hbits, .of_fixedBits hbits, fun h => ?_⟩
  have hst : exec (.st x y) s = .next _ := (exec_st x y s).trans (State.writeMem_eq_next.2 ⟨h, rfl⟩)
  exact ⟨_, hst, State.changes_of_writeMem hst⟩

/-- Settles O15: `cp` writes one register, `cmp` and `bit` the flags in force only. -/
theorem copyCompareAndBitTestGiveTheirResults : Obligations.CopyCompareAndBitTestGiveTheirResults := fun x y s =>
  have hcp := Laws.FixedBits.cp x y
  have hcmp := Laws.FixedBits.cmp x y
  have hbit := Laws.FixedBits.bit x y
  ⟨.of_fixedBits hcp, .of_fixedBits hcp, execCp_givesReg x y s, .of_fixedBits hcmp, .of_fixedBits hcmp,
    execCmp_givesFlags x y s, .of_fixedBits hbit, .of_fixedBits hbit, execBit_givesFlags x y s⟩

end Sys2Proof.Proofs

/-! The one-operand integer and control instructions (42_int1_control.md): how changes that follow one another compose,
the rules that the replacements of a register and the branches share, and what `call` leaves. -/

namespace Sys2Proof.Machine

/-! ## Changes that follow one another -/

theorem OnlyRegs.trans {s t u : State} {rs rs' : List Reg} (hmode : t.mode = s.mode) (h : OnlyRegs s t rs)
    (h' : OnlyRegs t u rs') : OnlyRegs s u (rs ++ rs') := by
  obtain ⟨hregs, hxs, hxu⟩ := h
  obtain ⟨hregs', hxs', hxu'⟩ := h'
  refine ⟨fun k hk => ?_, fun hm => ?_, fun hm => ?_⟩
  · obtain ⟨hk, hk'⟩ := not_or.1 (mt List.mem_append.2 hk)
    exact (hregs' k hk').trans (hregs k hk)
  · exact (hxs' (hmode.trans hm)).trans (hxs hm)
  · exact (hxu' (hmode.trans hm)).trans (hxu hm)

theorem FlagsBecome.trans {s t u : State} {fl fl' : Flags} (hmode : t.mode = s.mode) (h : FlagsBecome s t fl)
    (h' : FlagsBecome t u fl') : FlagsBecome s u fl' := by
  obtain ⟨-, hsts, hstu⟩ := h
  obtain ⟨hfl', hsts', hstu'⟩ := h'
  exact ⟨hfl', fun hm => (hsts' (hmode.trans hm)).trans (hsts hm), fun hm => (hstu' (hmode.trans hm)).trans (hstu hm)⟩

theorem OnlyF.trans {s t u : State} {fs fs' : List FReg} (h : OnlyF s t fs) (h' : OnlyF t u fs') :
    OnlyF s u (fs ++ fs') := fun j hj =>
  have ⟨hj, hj'⟩ := not_or.1 (mt List.mem_append.2 hj)
  (h' j hj').trans (h j hj)

/-- A part that stores nothing can come before the stores. -/
theorem Stores.nil_trans {s t u : State} {l : List (Word × Word)} (h : Stores s t []) (h' : Stores t u l) :
    Stores s u l := by
  obtain ⟨-, hbytes, hlast⟩ := h
  obtain ⟨hwords, hbytes', hlast'⟩ := h'
  exact ⟨hwords, fun k hk => (hbytes' k hk).trans (hbytes k (by simp)), hlast'.trans (congrArg _ hlast)⟩

/-- A part that stores nothing can come after the stores. -/
theorem Stores.trans_nil {s t u : State} {l : List (Word × Word)} (h : Stores s t l) (h' : Stores t u []) :
    Stores s u l := by
  obtain ⟨hwords, hbytes, hlast⟩ := h
  obtain ⟨-, hbytes', hlast'⟩ := h'
  have hsame (k : Nat) : u.mem.readByte k = t.mem.readByte k := hbytes' k (by simp)
  exact ⟨fun p hp => (Memory.readWord_congr fun k _ _ => hsame k).trans (hwords p hp),
    fun k hk => (hsame k).trans (hbytes k hk), hlast'.trans hlast⟩

theorem Changes.refl (s : State) : Changes s s [] s.flags [] [] 0 := by
  simpa only [s.setFlags_self] using s.changes_setFlags s.flags

/-- The changes of a part that stores nothing and of the part after it. -/
theorem Changes.trans {s t u : State} {rs rs' : List Reg} {fl fl' : Flags} {fs fs' : List FReg}
    {l : List (Word × Word)} {n n' : Nat} (h : Changes s t rs fl fs [] n) (h' : Changes t u rs' fl' fs' l n') :
    Changes s u (rs ++ rs') fl' (fs ++ fs') l (n + n') := by
  obtain ⟨hregs, hflags, hf, hstores, hdraws, ⟨hmode, hibuf, hstop⟩, hm, hirq, hmap, hvec, hprev⟩ := h
  obtain ⟨hregs', hflags', hf', hstores', hdraws', ⟨hmode', hibuf', hstop'⟩, hm', hirq', hmap', hvec', hprev'⟩ := h'
  have hdrawn : u.draws = s.draws + (n + n') := by rw [hdraws', hdraws, Nat.add_assoc]
  exact ⟨hregs.trans hmode hregs', hflags.trans hmode hflags', hf.trans hf', hstores.nil_trans hstores', hdrawn,
    ⟨hmode'.trans hmode, hibuf'.trans hibuf, hstop'.trans hstop⟩,
    ⟨hm'.trans hm, hirq'.trans hirq, hmap'.trans hmap, hvec'.trans hvec, hprev'.trans hprev⟩⟩

theorem OnlyBanks.trans {s t u : State} {us us' ss ss' : List Nat} (h : OnlyBanks s t us ss)
    (h' : OnlyBanks t u us' ss') : OnlyBanks s u (us ++ us') (ss ++ ss') := by
  obtain ⟨hxu, hxs⟩ := h
  obtain ⟨hxu', hxs'⟩ := h'
  refine ⟨fun k hlt hk => ?_, fun k hlt hk => ?_⟩
  · obtain ⟨hk, hk'⟩ := not_or.1 (mt List.mem_append.2 hk)
    exact (hxu' k hlt hk').trans (hxu k hlt hk)
  · obtain ⟨hk, hk'⟩ := not_or.1 (mt List.mem_append.2 hk)
    exact (hxs' k hlt hk').trans (hxs k hlt hk)

/-- What changes among the registers of the current mode, as a change of the two banks. -/
theorem OnlyRegs.onlyBanks {s t : State} {rs : List Reg} {ns : List Nat} (h : OnlyRegs s t rs)
    (hmode : t.mode = s.mode) (hns : ∀ k : Reg, k ∈ rs → k.val < 31 → k.val ∈ ns) :
    OnlyBanks s t (if s.mode = .user then ns else []) (if s.mode = .supervisor then ns else []) := by
  obtain ⟨hregs, hxs, hxu⟩ := h
  have hbank (k : Nat) (hlt : k < 31) (hk : k ∉ ns) : t.bank[k] = s.bank[k] := by
    have hread := hregs ⟨k, by omega⟩ fun hmem => hk (hns _ hmem hlt)
    rwa [State.readReg_of_lt t hlt, State.readReg_of_lt s hlt] at hread
  cases hm : s.mode with
  | user =>
    simp only [State.bank, hmode, hm] at hbank
    exact ⟨hbank, fun k hlt _ => by rw [hxs hm]⟩
  | supervisor =>
    simp only [State.bank, hmode, hm] at hbank
    exact ⟨fun k hlt _ => by rw [hxu hm], hbank⟩

/-! ## `push` and `pop` on the current mode's stack (R57, R141, R142) -/

/-- A push that is admitted completes: the pointer moves, and the word below it is stored. -/
theorem State.push_of_storable {s : State} (v : Word) (h : Storable s (s.readReg 30 - 1)) :
    ∃ t, s.push v = .next t ∧ t.readReg 30 = s.readReg 30 - 1 ∧
      Changes s t [30] s.flags [] [(s.readReg 30 - 1, v)] 0 := by
  obtain ⟨t, ht⟩ : ∃ t, s.push v = .next t := ⟨_, State.push_eq_next.2 ⟨h, rfl⟩⟩
  have hstore : Changes (s.writeReg 30 (s.readReg 30 - 1)) t [] s.flags [] [(s.readReg 30 - 1, v)] 0 :=
    s.writeReg_flags 30 (s.readReg 30 - 1) ▸ State.changes_of_writeMem ht
  refine ⟨t, ht, ?_, (s.changes_writeReg 30 _).trans hstore⟩
  obtain ⟨⟨hregs, -⟩, -⟩ := hstore
  exact (hregs 30 (by simp)).trans (s.readReg_writeReg_same _ _)

theorem State.pop_of_readable {s : State} {v : Word} (h : Readable s (s.readReg 30) v) :
    s.pop = .next (v, s.writeReg 30 (s.readReg 30 + 1)) := State.pop_eq_next.2 ⟨h, rfl⟩

/-- `pop` moves the pointer before it writes the popped word back. -/
theorem execPop_of_readable (x : Reg) {s : State} {v : Word} (h : Readable s (s.readReg 30) v) :
    execPop x s = .next (((s.writeReg 30 (s.readReg 30 + 1)).setFlags (zn s.flags v)).writeReg x v) := by
  rw [execPop, State.pop_of_readable h, andThen_next, State.writeReg_flags, Flags.setZN_eq_zn]

/-! ## The rules of the format -/

/-- An instruction that replaces its operand by `res` of it meets the rule. -/
theorem Int1Rule.of_writeBack {mk : Reg → Instr} {op : Nat} {res : Word → Word} {fl : Word → Flags → Flags}
    (hbits : ∀ x, Laws.FixedBits.Statement (mk x))
    (hexec : ∀ x s, exec (mk x) s =
      .next ((s.setFlags (fl (s.readReg x) s.flags)).writeReg x (res (s.readReg x))))
    (hrow : ∀ x, Laws.fixedBits (mk x) = [(31, 22, 128 + 2 * op)] := by intros; rfl) : Int1Rule mk op res fl :=
  fun x s => ⟨.of_fixedBits (hbits x) (by simp [hrow]), _, hexec x s, State.readReg_writeReg_same _ _ _,
    s.changes_writeBack _ _ _⟩

theorem Int1Rule.of_replaceZNV {mk : Reg → Instr} {op : Nat} {f : Word → Word × Bool} {res : Word → Word}
    {v : Word → Bool} (hbits : ∀ x, Laws.FixedBits.Statement (mk x)) (hf : ∀ a, f a = (res a, v a))
    (hrow : ∀ x, Laws.fixedBits (mk x) = [(31, 22, 128 + 2 * op)] := by intros; rfl)
    (hexec : ∀ x s, exec (mk x) s = replaceZNV f x s := by intros; rfl) :
    Int1Rule mk op res fun a fl => znv fl (res a) (v a) :=
  .of_writeBack hbits (fun x s => by rw [hexec, replaceZNV, hf, Flags.setZNV_eq_znv]) hrow

/-- An instruction that writes a constant and no flag meets the rule. -/
theorem Int1Rule.of_writeReg {mk : Reg → Instr} {op : Nat} {r : Word}
    (hbits : ∀ x, Laws.FixedBits.Statement (mk x))
    (hexec : ∀ x s, exec (mk x) s = .next (s.writeReg x r) := by intros; rfl)
    (hrow : ∀ x, Laws.fixedBits (mk x) = [(31, 22, 128 + 2 * op)] := by intros; rfl) :
    Int1Rule mk op (fun _ => r) fun _ fl => fl :=
  .of_writeBack hbits (fun x s => by rw [hexec, State.setFlags_self]) hrow

theorem execNor_eq (x : Reg) (s : State) :
    execNor x s = .next ((s.setFlags (zn s.flags (~~~s.readReg x))).writeReg x (~~~s.readReg x)) := by
  rw [execNor, Flags.setZN_eq_zn]

theorem negOut_eq (v : Word) : negOut v = (-v, decide (v = 0x80000000)) := congrArg (·, _) (BitVec.zero_sub v)

theorem branchIf_of_true {cond : Flags → Bool} {s : State} (h : cond s.flags = true) (x : Target) :
    branchIf cond x s = .next { s with pc := s.targetAddr x } := congrArg _ (if_pos h)

theorem branchIf_of_false {cond : Flags → Bool} {s : State} (h : cond s.flags = false) (x : Target) :
    branchIf cond x s = .next s := congrArg _ (if_neg (ne_true_of_eq_false h))

/-- A branch on a condition of the flags meets the rule of that condition. -/
theorem BranchRule.of_branchIf {mk : Target → Instr} {op : Nat} {cond : Flags → Bool}
    (hbits : ∀ x, Laws.FixedBits.Statement (mk x))
    (hrow : ∀ x, Laws.fixedBits (mk x) = [(31, 23, 64 + op)] := by intros; rfl)
    (hexec : ∀ x s, exec (mk x) s = branchIf cond x s := by intros; rfl) : BranchRule mk op cond :=
  fun x s => ⟨.of_fixedBits (hbits x) (by simp [hrow]), fun h => (hexec x s).trans (branchIf_of_true h x),
    fun h => (hexec x s).trans (branchIf_of_false h x)⟩

/-! ## A frame on the supervisor stack (R57) -/

/-- The state once the words of a frame are pushed: SSP moves and the words are stored. -/
def State.withFrame (s : State) (frame : List (Word × Word)) : State :=
  { s.setSsp (s.ssp - BitVec.ofNat 32 frame.length) with
    mem := s.mem.writeAll frame
    storesLast := (frame.map Prod.fst).reverse ++ s.storesLast }

theorem State.pushAllS_of_storable {s : State} {l : List Word} (h : ∀ p ∈ frameBelow s.ssp l, Storable s p.1) :
    s.pushAllS l = .next (s.withFrame (frameBelow s.ssp l)) :=
  State.pushAllS_eq_next.2 ⟨h, by rw [State.withFrame, length_frameBelow]⟩

theorem State.withFrame_ssp (s : State) (frame : List (Word × Word)) :
    (s.withFrame frame).ssp = s.ssp - BitVec.ofNat 32 frame.length := by
  simp [State.withFrame, State.setSsp, State.ssp]

theorem State.stores_withFrame (s : State) {l : List Word} (h : l.length ≤ 2 ^ 32) :
    Stores s (s.withFrame (frameBelow s.ssp l)) (frameBelow s.ssp l) :=
  stores_writeAll (nodup_frameBelow s.ssp h) rfl rfl

theorem State.onlyBanks_withFrame (s : State) (frame : List (Word × Word)) :
    OnlyBanks s (s.withFrame frame) [] [30] := by
  refine ⟨fun _ _ _ => rfl, fun k hlt hk => ?_⟩
  have hne : 30 ≠ k := fun h => hk (List.mem_singleton.2 h.symm)
  exact Vector.getElem_set_ne (by decide) hlt hne

/-! ## `call` (R180) -/

/-- The registers that `State.writeRegsDown` writes: `n` of them, from `i` down. -/
def regsDown (i : Reg) : Nat → List Reg
  | 0 => []
  | n + 1 => i :: regsDown (i - 1) n

theorem State.changes_writeRegsDown (s : State) (i : Reg) (l : List Word) :
    Changes s (s.writeRegsDown i l) (regsDown i l.length) s.flags [] [] 0 := by
  induction l generalizing s i with
  | nil => exact .refl s
  | cons v rest ih =>
    have hrest := ih (s.writeReg i v) (i - 1)
    rw [State.writeReg_flags] at hrest
    exact (s.changes_writeReg i v).trans hrest

/-- The nine pushes of `call` store its frame. -/
theorem frameBelow_dataRegs (s : State) : frameBelow s.ssp (s.dataRegs ++ [s.stWordNow]) = callFrame s := by
  simp [frameBelow, callFrame, State.dataRegs, State.stWordNow, sub_sub]

/-- What is left of `call` after its pushes: `%d0` to `%d7` and the flags in force are cleared, `%lr` receives the next
address, and `pc` the target. -/
def State.enterCallee (s : State) (target : Word) : State :=
  (((s.writeRegsDown 23 (List.replicate 8 0)).setFlags Flags.clear).writeReg lrReg s.pc).writeReg pcReg target

theorem State.changes_enterCallee (s : State) (target : Word) :
    Changes s (s.enterCallee target) (regsDown 23 8 ++ [15, 31]) Flags.clear [] [] 0 := by
  have hcleared := (s.changes_writeRegsDown 23 (List.replicate 8 0)).trans
    (State.changes_writeBack _ Flags.clear lrReg s.pc)
  have hjump := State.changes_writeReg
    (((s.writeRegsDown 23 (List.replicate 8 0)).setFlags Flags.clear).writeReg lrReg s.pc) pcReg target
  rw [State.writeReg_flags, State.setFlags_flags] at hjump
  exact hcleared.trans hjump

theorem State.readReg_enterCallee_lr (s : State) (target : Word) : (s.enterCallee target).readReg 15 = s.pc := by
  rw [State.enterCallee, State.readReg_writeReg_other _ _ (by decide), lrReg, State.readReg_writeReg_same]

theorem State.readReg_enterCallee_data (s : State) (target : Word) {k : Reg} (hk : k.val ∈ dataNumbers) :
    (s.enterCallee target).readReg k = 0 := by
  have hrange : ∀ n ∈ dataNumbers, 16 ≤ n ∧ n ≤ 23 := by decide
  obtain ⟨hlow, hhigh⟩ := hrange k.val hk
  have hlr : k ≠ lrReg := by rintro rfl; exact absurd hlow (by decide)
  have hpc : k ≠ pcReg := by rintro rfl; exact absurd hhigh (by decide)
  have hplace : k.val + (23 - k.val) = (23 : Reg).val := Nat.add_sub_cancel' hhigh
  rw [State.enterCallee, State.readReg_writeReg_other _ _ hpc, State.readReg_writeReg_other _ _ hlr,
    State.setFlags_readReg, State.readReg_writeRegsDown_same s (by decide) (by rw [List.length_replicate]; omega) hplace,
    List.getElem_replicate]

/-- Where its pushes are admitted, `call` completes them and enters the callee. -/
theorem execCall_of_storable (x : Target) {s : State} (h : ∀ p ∈ callFrame s, Storable s p.1) :
    execCall x s = .next ((s.withFrame (callFrame s)).enterCallee (s.targetAddr x)) := by
  rw [← frameBelow_dataRegs] at h ⊢
  rw [execCall, State.pushAllS_of_storable h, andThen_next]
  generalize s.withFrame (frameBelow s.ssp (s.dataRegs ++ [s.stWordNow])) = u
  obtain ⟨⟨hregs, -⟩, -⟩ := u.changes_writeRegsDown 23 (List.replicate 8 0)
  have hpc : (u.writeRegsDown 23 (List.replicate 8 0)).pc = u.pc := hregs 31 (by decide)
  simp only [State.pcValue_eq, State.setFlags_pc, hpc, State.enterCallee, State.writeReg_pcReg]

theorem State.stores_callFrame (s : State) : Stores s (s.withFrame (callFrame s)) (callFrame s) := by
  have hlen : (s.dataRegs ++ [s.stWordNow]).length = 9 := rfl
  rw [← frameBelow_dataRegs]
  exact s.stores_withFrame (hlen.le.trans (by decide))

/-- Entering the callee leaves SSP and, of the banks, changes the current mode's `%lr` and `%d0` to `%d7`. -/
theorem State.onlyBanks_enterCallee (s : State) (target : Word) :
    OnlyBanks s (s.enterCallee target) (if s.mode = .user then 15 :: dataNumbers else [])
      (if s.mode = .supervisor then 15 :: dataNumbers else []) := by
  obtain ⟨hregs, -, -, -, -, ⟨hmode, -⟩, -⟩ := s.changes_enterCallee target
  exact hregs.onlyBanks hmode (by decide)

theorem State.enterCallee_ssp (s : State) (target : Word) : (s.enterCallee target).ssp = s.ssp := by
  obtain ⟨-, hxs⟩ := s.onlyBanks_enterCallee target
  exact hxs 30 (by decide) (by split <;> decide)

end Sys2Proof.Machine

namespace Sys2Proof.Proofs
open Sys2Proof.Machine

/-- Settles O22: the pushes store the frame, and what follows them stores nothing and leaves SSP. -/
theorem callSavesAndClearsTheDataRegisters : Obligations.CallSavesAndClearsTheDataRegisters := by
  refine fun x s => ⟨.of_fixedBits (Laws.FixedBits.call x), fun h => ?_⟩
  obtain ⟨-, hflags, hf, hstores, hdraws, hcontrol, hrest⟩ :=
    (s.withFrame (callFrame s)).changes_enterCallee (s.targetAddr x)
  exact ⟨_, execCall_of_storable x h, rfl, State.readReg_enterCallee_lr _ _,
    (State.enterCallee_ssp _ _).trans (s.withFrame_ssp _), fun _ hk => State.readReg_enterCallee_data _ _ hk,
    (s.onlyBanks_withFrame _).trans (State.onlyBanks_enterCallee _ _), hflags, hf,
    s.stores_callFrame.trans_nil hstores, hdraws, hcontrol, hrest⟩

/-- Settles O18: each of the two is a move of the stack pointer followed by a store or a write-back. -/
theorem pushAndPopMoveOneWord : Obligations.PushAndPopMoveOneWord := by
  refine fun x s => ⟨.of_fixedBits (Laws.FixedBits.push x), .of_fixedBits (Laws.FixedBits.pop x),
    State.push_of_storable (s.readReg x), fun v h => ⟨_, execPop_of_readable x h, ?_, fun hx => ?_, ?_⟩⟩
  · exact State.readReg_writeReg_same _ _ _
  · rw [State.readReg_writeReg_other _ _ hx.symm, State.setFlags_readReg, State.readReg_writeReg_same]
  · exact (s.changes_writeReg 30 _).trans (State.changes_writeBack _ _ _ _)

/-- Settles O19: all six write one register back; `clr` and `set` leave the flags. -/
theorem oneRegisterInstructionsReplaceTheirOperand : Obligations.OneRegisterInstructionsReplaceTheirOperand :=
  ⟨.of_writeBack Laws.FixedBits.nor execNor_eq, .of_replaceZNV Laws.FixedBits.neg negOut_eq,
    .of_writeReg Laws.FixedBits.clr, .of_writeReg Laws.FixedBits.set,
    .of_replaceZNV Laws.FixedBits.inc fun _ => rfl, .of_replaceZNV Laws.FixedBits.dec fun _ => rfl⟩

/-- Settles O20: each branch is `branchIf` of its condition. -/
theorem integerBranchesAndJumpGoToTheirTargets : Obligations.IntegerBranchesAndJumpGoToTheirTargets :=
  ⟨.of_branchIf Laws.FixedBits.beq, .of_branchIf Laws.FixedBits.bne, .of_branchIf Laws.FixedBits.bgt,
    .of_branchIf Laws.FixedBits.blt, .of_branchIf Laws.FixedBits.bge, .of_branchIf Laws.FixedBits.bpl,
    .of_branchIf Laws.FixedBits.bmi, .of_branchIf Laws.FixedBits.bvc, .of_branchIf Laws.FixedBits.bvs,
    .of_branchIf Laws.FixedBits.bcc, .of_branchIf Laws.FixedBits.bcs,
    fun x _ => ⟨.of_fixedBits (Laws.FixedBits.jmp x), rfl⟩⟩

/-- Settles O21: each branch is `branchIf` of its condition. -/
theorem floatBranchesGoToTheirTargets : Obligations.FloatBranchesGoToTheirTargets :=
  ⟨.of_branchIf Laws.FixedBits.bfeq, .of_branchIf Laws.FixedBits.bfne, .of_branchIf Laws.FixedBits.bfgt,
    .of_branchIf Laws.FixedBits.bflt, .of_branchIf Laws.FixedBits.bfge, .of_branchIf Laws.FixedBits.bfpl,
    .of_branchIf Laws.FixedBits.bfmi, .of_branchIf Laws.FixedBits.bfinf, .of_branchIf Laws.FixedBits.bfninf,
    .of_branchIf Laws.FixedBits.bfnnf, .of_branchIf Laws.FixedBits.bfnnnf, .of_branchIf Laws.FixedBits.bfnan,
    .of_branchIf Laws.FixedBits.bfnnan, .of_branchIf Laws.FixedBits.bfdn, .of_branchIf Laws.FixedBits.bfndn⟩

end Sys2Proof.Proofs

/-! The three-operand floating-point instructions (43_fp3.md): the fields and classes of a pattern, the class flags that
follow from them, and the write-back that all floating-point results share. -/

namespace Sys2Proof.Machine

/-! ## The fields of a pattern (R190) -/

theorem toNat_exponentField (d : Word64) : (d.extractLsb' 52 11).toNat = fExp d := by
  rw [BitVec.extractLsb'_toNat, Nat.shiftRight_eq_div_pow, fExp]

theorem toNat_fractionField (d : Word64) : (d.extractLsb' 0 52).toNat = fFrac d := by
  rw [BitVec.extractLsb'_toNat, Nat.shiftRight_zero, fFrac]

theorem fFrac_lt (d : Word64) : fFrac d < 2 ^ 52 := Nat.mod_lt _ (by decide)

theorem fSign_eq_decide (d : Word64) : fSign d = decide (2 ^ 63 ≤ d.toNat) := BitVec.msb_eq_decide d

theorem toNat_eq_fields (d : Word64) : d.toNat = (fSign d).toNat * 2 ^ 63 + fExp d * 2 ^ 52 + fFrac d := by
  have hlt := d.isLt
  rw [fSign_eq_decide, fExp, fFrac, Bool.toNat, Bool.cond_decide]
  split <;> omega

theorem eq_iff_fields (d d' : Word64) : d = d' ↔ fSign d = fSign d' ∧ fExp d = fExp d' ∧ fFrac d = fFrac d' := by
  refine ⟨by rintro rfl; exact ⟨rfl, rfl, rfl⟩, fun ⟨hs, he, hf⟩ => BitVec.eq_of_toNat_eq ?_⟩
  rw [toNat_eq_fields d, toNat_eq_fields d', hs, he, hf]

section
variable (sg : Bool) {k : Nat} (hk : k < 2 ^ 63)
include hk

theorem toNat_pack : (pack sg k).toNat = sg.toNat * 2 ^ 63 + k := by
  rw [pack, BitVec.toNat_ofNat]
  have := sg.toNat_le
  omega

theorem fSign_pack : fSign (pack sg k) = sg := by
  rw [fSign_eq_decide, toNat_pack sg hk]
  have hsg : 2 ^ 63 ≤ sg.toNat * 2 ^ 63 + k ↔ sg = true := by
    cases sg
    · simp only [Bool.toNat_false, Bool.false_eq_true, iff_false]; omega
    · simp
  simp only [hsg, Bool.decide_eq_true]

theorem fExp_pack : fExp (pack sg k) = k / 2 ^ 52 := by
  rw [fExp, toNat_pack sg hk]
  omega

theorem fFrac_pack : fFrac (pack sg k) = k % 2 ^ 52 := by
  rw [fFrac, toNat_pack sg hk]
  omega

end

/-! ## The classes of a pattern (R190) -/

theorem exponentField_eq_iff (d : Word64) {b : BitVec 11} : d.extractLsb' 52 11 = b ↔ fExp d = b.toNat := by
  rw [← BitVec.toNat_inj, toNat_exponentField]

theorem fractionField_eq_zero_iff (d : Word64) : d.extractLsb' 0 52 = 0 ↔ fFrac d = 0 := by
  rw [← BitVec.toNat_inj, toNat_fractionField]; rfl

theorem isNan_eq_true_iff (d : Word64) : isNan d = true ↔ NanPattern d := by
  rw [NanPattern, exponentField_eq_iff, ne_eq, fractionField_eq_zero_iff]
  simp [isNan]

theorem finitePattern_iff (d : Word64) : FinitePattern d ↔ fExp d ≠ 2047 := by
  rw [FinitePattern, ne_eq, exponentField_eq_iff]; rfl

theorem eq_infOf_iff (d : Word64) (sg : Bool) : d = infOf sg ↔ isInf d = true ∧ fSign d = sg := by
  have hk : 2047 * 2 ^ 52 < 2 ^ 63 := by decide
  rw [eq_iff_fields, infOf, fSign_pack sg hk, fExp_pack sg hk, fFrac_pack sg hk]
  simp [isInf, and_comm]

theorem eq_zeroOf_iff (d : Word64) (sg : Bool) : d = zeroOf sg ↔ isZero d = true ∧ fSign d = sg := by
  have hk : 0 < 2 ^ 63 := by decide
  rw [eq_iff_fields, zeroOf, fSign_pack sg hk, fExp_pack sg hk, fFrac_pack sg hk]
  simp [isZero, and_comm]

theorem isZero_iff (d : Word64) : isZero d = true ↔ d = zeroOf false ∨ d = zeroOf true := by
  rw [eq_zeroOf_iff, eq_zeroOf_iff, ← and_or_left]
  simp

theorem infOf_eq (sg : Bool) : infOf sg = if sg then 0xFFF0000000000000 else 0x7FF0000000000000 := by
  cases sg <;> rfl

theorem zeroOf_eq (sg : Bool) : zeroOf sg = if sg then 0x8000000000000000 else 0 := by
  cases sg <;> rfl

theorem isZero_excludes {d : Word64} (h : isZero d = true) :
    isNan d = false ∧ isInf d = false ∧ isDenorm d = false := by
  simp only [isZero, Bool.and_eq_true, decide_eq_true_eq] at h
  simp [isNan, isInf, isDenorm, h]

theorem isInf_excludes {d : Word64} (h : isInf d = true) :
    isNan d = false ∧ isZero d = false ∧ isDenorm d = false := by
  simp only [isInf, Bool.and_eq_true, decide_eq_true_eq] at h
  simp [isNan, isZero, isDenorm, h]

theorem isNan_excludes {d : Word64} (h : isNan d = true) :
    isInf d = false ∧ isZero d = false ∧ isDenorm d = false := by
  simp only [isNan, Bool.and_eq_true, decide_eq_true_eq] at h
  simp [isInf, isZero, isDenorm, h]

theorem FinitePattern.isNan_eq_false {d : Word64} (h : FinitePattern d) : isNan d = false := by
  simp [isNan, (finitePattern_iff d).1 h]

theorem FinitePattern.isInf_eq_false {d : Word64} (h : FinitePattern d) : isInf d = false := by
  simp [isInf, (finitePattern_iff d).1 h]

@[simp] theorem isInf_infOf (sg : Bool) : isInf (infOf sg) = true := ((eq_infOf_iff _ sg).1 rfl).1
@[simp] theorem fSign_infOf (sg : Bool) : fSign (infOf sg) = sg := ((eq_infOf_iff _ sg).1 rfl).2
@[simp] theorem isZero_zeroOf (sg : Bool) : isZero (zeroOf sg) = true := ((eq_zeroOf_iff _ sg).1 rfl).1
@[simp] theorem fSign_zeroOf (sg : Bool) : fSign (zeroOf sg) = sg := ((eq_zeroOf_iff _ sg).1 rfl).2
@[simp] theorem isNan_infOf (sg : Bool) : isNan (infOf sg) = false := (isInf_excludes (isInf_infOf sg)).1
@[simp] theorem isZero_infOf (sg : Bool) : isZero (infOf sg) = false := (isInf_excludes (isInf_infOf sg)).2.1
@[simp] theorem isNan_zeroOf (sg : Bool) : isNan (zeroOf sg) = false := (isZero_excludes (isZero_zeroOf sg)).1
@[simp] theorem isInf_zeroOf (sg : Bool) : isInf (zeroOf sg) = false := (isZero_excludes (isZero_zeroOf sg)).2.1

/-! ## The sign changed (R228) -/

theorem fSign_fpNeg (d : Word64) : fSign (fpNeg d) = !fSign d := by
  rw [fpNeg, fSign, BitVec.getLsbD_xor, fSign]
  simp

theorem exponentField_fpNeg (d : Word64) : (fpNeg d).extractLsb' 52 11 = d.extractLsb' 52 11 := by
  rw [fpNeg, BitVec.extractLsb'_xor]
  exact BitVec.xor_zero

theorem fractionField_fpNeg (d : Word64) : (fpNeg d).extractLsb' 0 52 = d.extractLsb' 0 52 := by
  rw [fpNeg, BitVec.extractLsb'_xor]
  exact BitVec.xor_zero

theorem finitePattern_fpNeg {d : Word64} (h : FinitePattern d) : FinitePattern (fpNeg d) := by
  rwa [FinitePattern, exponentField_fpNeg]

@[simp] theorem fpNeg_infOf (sg : Bool) : fpNeg (infOf sg) = infOf !sg := by
  cases sg <;> rfl

@[simp] theorem isNan_fpNeg (d : Word64) : isNan (fpNeg d) = isNan d := by
  rw [Bool.eq_iff_iff, isNan_eq_true_iff, isNan_eq_true_iff, NanPattern, exponentField_fpNeg, fractionField_fpNeg,
    NanPattern]

/-! ## The class flags (R192) -/

theorem isNan_eq (d : Word64) :
    isNan d = (decide (d.extractLsb' 52 11 = 2047) && decide (d.extractLsb' 0 52 ≠ 0)) := by
  simp only [isNan, exponentField_eq_iff, ne_eq, fractionField_eq_zero_iff]
  rfl

theorem isDenorm_eq (d : Word64) :
    isDenorm d = (decide (d.extractLsb' 52 11 = 0) && decide (d.extractLsb' 0 52 ≠ 0)) := by
  simp only [isDenorm, exponentField_eq_iff, ne_eq, fractionField_eq_zero_iff]
  rfl

theorem isZero_eq (d : Word64) : isZero d = (decide (d = 0x0000000000000000) || decide (d = 0x8000000000000000)) := by
  rw [Bool.eq_iff_iff, Bool.or_eq_true, decide_eq_true_iff, decide_eq_true_iff]
  exact isZero_iff d

theorem isInf_and_not_fSign_eq (d : Word64) : (isInf d && !fSign d) = decide (d = 0x7FF0000000000000) := by
  rw [Bool.eq_iff_iff, Bool.and_eq_true, Bool.not_eq_true', decide_eq_true_iff]
  exact (eq_infOf_iff d false).symm

theorem isInf_and_fSign_eq (d : Word64) : (isInf d && fSign d) = decide (d = 0xFFF0000000000000) := by
  rw [Bool.eq_iff_iff, Bool.and_eq_true, decide_eq_true_iff]
  exact (eq_infOf_iff d true).symm

section
variable (fl : Flags) (d : Word64)

@[simp] theorem Flags.setAllF_fnan : (fl.setAllF d).fnan = isNan d := rfl
@[simp] theorem Flags.setAllF_finf : (fl.setAllF d).finf = (isInf d && !fSign d) := rfl
@[simp] theorem Flags.setAllF_fnnf : (fl.setAllF d).fnnf = (isInf d && fSign d) := rfl
@[simp] theorem Flags.setAllF_fz : (fl.setAllF d).fz = isZero d := rfl
@[simp] theorem Flags.setAllF_fn : (fl.setAllF d).fn = (fSign d && !isZero d && !isNan d) := rfl
@[simp] theorem Flags.setAllF_fdn : (fl.setAllF d).fdn = isDenorm d := rfl

theorem Flags.setAllF_eq_allF : fl.setAllF d = allF fl d := by
  rw [allF, ← isNan_eq, ← isDenorm_eq, ← isZero_eq, ← isInf_and_not_fSign_eq, ← isInf_and_fSign_eq]
  rfl

variable {fl d}

/-! Which of the other five flags can be 1 beside a given one: the classes exclude each other, and the sign tells
the two infinities apart. -/

theorem Flags.setAllF_fz_excludes (h : (fl.setAllF d).fz = true) : (fl.setAllF d).fn = false ∧
    (fl.setAllF d).finf = false ∧ (fl.setAllF d).fnnf = false ∧ (fl.setAllF d).fnan = false ∧
    (fl.setAllF d).fdn = false := by
  rw [setAllF_fz] at h
  obtain ⟨hnan, hinf, hdn⟩ := isZero_excludes h
  simp [h, hnan, hinf, hdn]

theorem Flags.setAllF_finf_excludes (h : (fl.setAllF d).finf = true) : (fl.setAllF d).fn = false ∧
    (fl.setAllF d).fnnf = false ∧ (fl.setAllF d).fnan = false ∧ (fl.setAllF d).fdn = false := by
  rw [setAllF_finf, Bool.and_eq_true, Bool.not_eq_true'] at h
  obtain ⟨hinf, hsign⟩ := h
  obtain ⟨hnan, -, hdn⟩ := isInf_excludes hinf
  simp [hsign, hnan, hdn]

theorem Flags.setAllF_fnan_excludes (h : (fl.setAllF d).fnan = true) :
    (fl.setAllF d).fn = false ∧ (fl.setAllF d).fnnf = false ∧ (fl.setAllF d).fdn = false := by
  rw [setAllF_fnan] at h
  obtain ⟨hinf, -, hdn⟩ := isNan_excludes h
  simp [h, hinf, hdn]

theorem Flags.setAllF_fnnf_excludes (h : (fl.setAllF d).fnnf = true) : (fl.setAllF d).fdn = false := by
  rw [setAllF_fnnf, Bool.and_eq_true] at h
  exact (isInf_excludes h.1).2.2

end

/-! ## The write-back of a result (R192, R193, U8) -/

theorem State.changes_writeF (s : State) (j : FReg) (d : Word64) : Changes s (s.writeF j d) [] s.flags [j] [] 0 :=
  ⟨⟨fun _ _ => rfl, fun _ => rfl, fun _ => rfl⟩, ⟨rfl, fun _ => rfl, fun _ => rfl⟩,
    fun _ hk => s.readF_writeF_other d (List.ne_of_not_mem_cons hk), ⟨by simp, fun _ _ => rfl, rfl⟩, rfl,
    ⟨rfl, rfl, rfl⟩, rfl, rfl, rfl, rfl, rfl⟩

theorem State.changes_draws (s : State) (n : Nat) :
    Changes s { s with draws := s.draws + n } [] s.flags [] [] n :=
  ⟨⟨fun _ _ => rfl, fun _ => rfl, fun _ => rfl⟩, ⟨rfl, fun _ => rfl, fun _ => rfl⟩, fun _ _ => rfl,
    ⟨by simp, fun _ _ => rfl, rfl⟩, rfl, ⟨rfl, rfl, rfl⟩, rfl, rfl, rfl, rfl, rfl⟩

theorem State.changes_putF (s : State) (j : FReg) (d : Word64) :
    Changes s (s.putF j d) [] (allF s.flags d) [j] [] 0 := by
  rw [← Flags.setAllF_eq_allF]
  exact (s.changes_writeF j d).trans (State.changes_setFlags _ _)

/-- The write-back of a result: of a NaN that is drawn, nothing is known but that it is one. -/
theorem State.putResult_givesResult (s : State) (j : FReg) (r : Option Word64) :
    GivesResult (.next (s.putResult j r)) s j r := by
  obtain ⟨d, n, hput, hsome, hnone⟩ := s.putResult_eq j r
  have hdrawn : n = if r.isNone then 1 else 0 := by
    cases r with
    | some e => exact (hsome e rfl).2
    | none => exact (hnone rfl).2
  have hread : (s.putResult j r).readF j = d := by rw [hput, State.putF_readF]
  have hchanges : Changes s (s.putResult j r) [] (allF s.flags d) [j] [] n := by
    rw [hput]
    exact (s.changes_draws n).trans (State.changes_putF _ j d)
  refine ⟨_, rfl, ?_, ?_, ?_⟩ <;> rw [hread]
  · exact fun e he => (hsome e he).1
  · exact fun hr => (isNan_eq_true_iff d).1 (hnone hr).1
  · rwa [← hdrawn]

/-- R193: an instruction that writes back one function of `FPNUM` meets the rule of the format. -/
theorem Fp3Rule.of_fp3 {mk : FReg → FReg → FReg → Instr} {op : Nat} {res : FpNum → Word64 → Word64 → Option Word64}
    (hbits : ∀ f g h, Laws.FixedBits.Statement (mk f g h))
    (hrow : ∀ f g h, Laws.fixedBits (mk f g h) = [(31, 24, 24 + op)] := by intros; rfl)
    (hexec : ∀ f g h s, exec (mk f g h) s = fp3 Config.fpnum res f g h s := by intros; rfl) :
    Fp3Rule mk op (res Config.fpnum) := by
  refine fun f g h s => ⟨.of_fixedBits (hbits f g h) (by simp [hrow]), ?_⟩
  rw [hexec]
  exact s.putResult_givesResult h _

end Sys2Proof.Machine

namespace Sys2Proof.Proofs
open Sys2Proof.Machine

/-- Settles O23: all five write the result of a function of `FPNUM` back. -/
theorem floatArithmeticWritesItsResult : Obligations.FloatArithmeticWritesItsResult :=
  ⟨.of_fp3 (res := FpNum.add) Laws.FixedBits.fadd, .of_fp3 (res := FpNum.sub) Laws.FixedBits.fsub,
    .of_fp3 (res := FpNum.mul) Laws.FixedBits.fmul, .of_fp3 (res := FpNum.div) Laws.FixedBits.fdiv,
    .of_fp3 (res := fun num a b => some (num.atan a b)) Laws.FixedBits.fatan⟩

/-- Settles O30: the flags as R192 lists them, and what each excludes. -/
theorem classFlagsFollowThePattern : Obligations.ClassFlagsFollowThePattern := fun fl d =>
  ⟨fl.setAllF_eq_allF d, Flags.setAllF_fz_excludes, Flags.setAllF_finf_excludes, Flags.setAllF_fnan_excludes,
    Flags.setAllF_fnnf_excludes⟩

end Sys2Proof.Proofs

/-! Rounding to nearest (R191): the real value of a finite pattern, and what `roundShift` and `roundPack` make of a
magnitude that is exact or was cut off to an integer. -/

namespace Sys2Proof.Machine

/-! ## Powers of two, and magnitudes with a sign -/

theorem zpow_add_nat (q : ℤ) (n : ℕ) : (2 : ℝ) ^ (q + n) = 2 ^ q * 2 ^ n := by
  rw [zpow_add₀ two_ne_zero, zpow_natCast]

theorem two_zpow_pos (q : ℤ) : (0 : ℝ) < 2 ^ q := zpow_pos two_pos q

theorem mul_two_zpow_div_of_le (y : ℝ) {q e : ℤ} (h : q ≤ e) : y * 2 ^ e / 2 ^ q = y * 2 ^ (e - q).toNat := by
  rw [← zpow_natCast, Int.toNat_of_nonneg (sub_nonneg.2 h), zpow_sub₀ two_ne_zero, mul_div_assoc]

theorem mul_two_zpow_div_of_ge (y : ℝ) {q e : ℤ} (h : e ≤ q) : y * 2 ^ e / 2 ^ q = y / 2 ^ (q - e).toNat := by
  rw [← zpow_natCast, Int.toNat_of_nonneg (sub_nonneg.2 h), zpow_sub₀ two_ne_zero, div_div_eq_mul_div]

/-- A magnitude with a sign. -/
noncomputable def signed (sg : Bool) (x : ℝ) : ℝ := if sg then -x else x

theorem abs_signed (sg : Bool) (x : ℝ) : |signed sg x| = |x| := by
  cases sg <;> simp [signed]

theorem signed_not (sg : Bool) (x : ℝ) : signed (!sg) x = -signed sg x := by
  cases sg <;> simp [signed]

theorem signed_signed (sg : Bool) (x : ℝ) : signed sg (signed sg x) = x := by
  cases sg <;> simp [signed]

theorem signed_injective (sg : Bool) : Function.Injective (signed sg) :=
  Function.LeftInverse.injective (signed_signed sg)

theorem abs_signed_sub (sg : Bool) (x v : ℝ) : |v - signed sg x| = |signed sg v - x| := by
  cases sg
  · rfl
  · rw [signed, signed, if_pos rfl, if_pos rfl, ← abs_neg]
    ring_nf

theorem signed_eq_zero_iff (sg : Bool) (x : ℝ) : signed sg x = 0 ↔ x = 0 := by
  cases sg <;> simp [signed]

theorem signed_mul_signed (sg sh : Bool) (x y : ℝ) : signed sg x * signed sh y = signed (sg != sh) (x * y) := by
  cases sg <;> cases sh <;> simp [signed]

theorem signed_div_signed (sg sh : Bool) (x y : ℝ) : signed sg x / signed sh y = signed (sg != sh) (x / y) := by
  cases sg <;> cases sh <;> simp [signed, neg_div, div_neg]

theorem signed_mul (sg : Bool) (x c : ℝ) : signed sg (x * c) = signed sg x * c := by
  cases sg <;> simp [signed]

/-! ## The value of a finite pattern (R190) -/

/-- The magnitude of a finite pattern. -/
noncomputable def fMag (d : Word64) : ℝ := fMant d * 2 ^ fPow d

theorem fMag_nonneg (d : Word64) : 0 ≤ fMag d := by unfold fMag; positivity

theorem fMag_of_fExp_eq_zero {d : Word64} (h : fExp d = 0) : fMag d = fFrac d * 2 ^ (-1074 : ℤ) := by
  simp [fMag, fMant, fPow, h]

theorem fMag_of_fExp_ne_zero {d : Word64} (h : fExp d ≠ 0) :
    fMag d = (2 ^ 52 + fFrac d : ℕ) * 2 ^ ((fExp d : ℤ) - 1075) := by
  simp [fMag, fMant, fPow, h]

theorem fVal_eq_signed (d : Word64) : (fVal d : ℝ) = signed (fSign d) (fMag d) := by
  have hmag : fMag d =
      if fExp d = 0 then (fFrac d : ℝ) / 2 ^ 1074 else ((2 ^ 52 + fFrac d : ℕ) : ℝ) * 2 ^ fExp d / 2 ^ 1075 := by
    split
    · next h =>
      rw [fMag_of_fExp_eq_zero h, zpow_neg, ← div_eq_mul_inv]
      rfl
    · next h =>
      rw [fMag_of_fExp_ne_zero h, zpow_sub₀ two_ne_zero, zpow_natCast, mul_div_assoc]
      rfl
  have hsign : ((if d.getLsbD 63 then -1 else 1 : ℚ) : ℝ) = signed (fSign d) 1 := by
    rw [fSign]
    cases d.getLsbD 63 <;> simp [signed]
  simp only [fVal]
  rw [Rat.cast_mul, hsign, ← signed_mul, one_mul, toNat_exponentField, toNat_fractionField, hmag,
    apply_ite (Rat.cast : ℚ → ℝ)]
  push_cast
  rfl

theorem fMant_lt (d : Word64) : fMant d < 2 ^ 53 := by
  have h := fFrac_lt d
  unfold fMant
  split <;> omega

theorem le_fPow (d : Word64) : -1074 ≤ fPow d := by
  unfold fPow
  split <;> omega

theorem isZero_eq_true_iff_fMant (d : Word64) : isZero d = true ↔ fMant d = 0 := by
  by_cases h : fExp d = 0 <;> simp [isZero, fMant, h]

theorem fVal_eq_zero_iff (d : Word64) : fVal d = 0 ↔ isZero d = true := by
  have hval : (fVal d : ℝ) = 0 ↔ fMant d = 0 := by
    rw [fVal_eq_signed, signed_eq_zero_iff, fMag, mul_eq_zero_iff_right (two_zpow_pos _).ne', Nat.cast_eq_zero]
  rw [isZero_eq_true_iff_fMant, ← hval, Rat.cast_eq_zero]

theorem fVal_fpNeg (d : Word64) : (fVal (fpNeg d) : ℝ) = -fVal d := by
  have hexp : fExp (fpNeg d) = fExp d := by rw [← toNat_exponentField, exponentField_fpNeg, toNat_exponentField]
  have hfrac : fFrac (fpNeg d) = fFrac d := by rw [← toNat_fractionField, fractionField_fpNeg, toNat_fractionField]
  rw [fVal_eq_signed, fVal_eq_signed, fSign_fpNeg, signed_not]
  simp only [fMag, fMant, fPow, hexp, hfrac]

theorem isZero_eq_false_of_fVal {d : Word64} (h : fVal d ≠ 0) : isZero d = false :=
  Bool.eq_false_iff.2 (mt (fVal_eq_zero_iff d).2 h)

theorem fMant_pos_of_fVal {d : Word64} (h : fVal d ≠ 0) : 0 < fMant d :=
  Nat.pos_of_ne_zero (mt (isZero_eq_true_iff_fMant d).2 (by simp [isZero_eq_false_of_fVal h]))

theorem fSign_of_fVal_pos {d : Word64} (h : 0 < fVal d) : fSign d = false := by
  have hval : (0 : ℝ) < fVal d := by exact_mod_cast h
  rw [fVal_eq_signed] at hval
  cases hs : fSign d with
  | false => rfl
  | true =>
    rw [hs, signed, if_pos rfl] at hval
    linarith [fMag_nonneg d]

theorem fSign_of_fVal_neg {d : Word64} (h : fVal d < 0) : fSign d = true := by
  have hval : (fVal d : ℝ) < 0 := by exact_mod_cast h
  rw [fVal_eq_signed] at hval
  cases hs : fSign d with
  | true => rfl
  | false =>
    rw [hs, signed, if_neg Bool.false_ne_true] at hval
    linarith [fMag_nonneg d]

/-! ## Rounding a real to an integer -/

/-- `r` is an integer nearest to `y`, and the even one if there are two. -/
def RoundsTo (y : ℝ) (r : ℕ) : Prop := |(r : ℝ) - y| ≤ 1 / 2 ∧ (|(r : ℝ) - y| = 1 / 2 → r % 2 = 0)

/-- `m` is the integer part of `y`, and `sticky` says whether anything was cut off. -/
structure Truncates (y : ℝ) (m : ℕ) (sticky : Bool) : Prop where
  le : (m : ℝ) ≤ y
  lt : y < m + 1
  exact_iff : sticky = false ↔ y = m

theorem roundsTo_natCast (r : ℕ) : RoundsTo r r := by simp [RoundsTo]

/-- No integer is nearer, and another one is as near only where `r` is even. -/
theorem RoundsTo.dist_le {y : ℝ} {r : ℕ} (h : RoundsTo y r) (z : ℤ) :
    |(r : ℝ) - y| ≤ |(z : ℝ) - y| ∧ (|(r : ℝ) - y| = |(z : ℝ) - y| → z ≠ r → r % 2 = 0) := by
  obtain ⟨hle, htie⟩ := h
  by_cases hz : z = r
  · simp [hz]
  · have hone : (1 : ℝ) ≤ |(z : ℝ) - r| := by
      have : 1 ≤ |z - (r : ℤ)| := Int.one_le_abs (sub_ne_zero.2 hz)
      exact_mod_cast this
    have htri := abs_sub_le (z : ℝ) y r
    rw [abs_sub_comm y] at htri
    exact ⟨by linarith, fun he _ => htie (by linarith)⟩

theorem abs_mul_sub_eq {u : ℝ} (hu : 0 < u) (w x : ℝ) : |w * u - x| = |w - x / u| * u := by
  rw [← abs_of_pos hu, ← abs_mul, abs_of_pos hu, sub_mul, div_mul_cancel₀ _ hu.ne']

section
variable {y D t : ℝ} {q : ℕ} (hD : 0 < D) (hy : y = D * q + t)
include hD hy

theorem roundsTo_div_of_rem_le (h0 : 0 ≤ t) (hle : 2 * t ≤ D) (heven : 2 * t = D → q % 2 = 0) : RoundsTo (y / D) q := by
  have habs : |(q : ℝ) - y / D| = t / D := by
    rw [← abs_of_nonneg (div_nonneg h0 hD.le), ← abs_neg, hy]
    congr 1
    field_simp
    ring
  rw [RoundsTo, habs, div_le_iff₀ hD, div_eq_iff hD.ne']
  exact ⟨by linarith, fun he => heven (by linarith)⟩

theorem roundsTo_div_of_le_rem (h0 : t ≤ D) (hle : D ≤ 2 * t) (hodd : 2 * t = D → q % 2 = 1) :
    RoundsTo (y / D) (q + 1) := by
  have habs : |((q + 1 : ℕ) : ℝ) - y / D| = (D - t) / D := by
    rw [← abs_of_nonneg (div_nonneg (sub_nonneg.2 h0) hD.le), hy]
    congr 1
    push_cast
    field_simp
    ring
  rw [RoundsTo, habs, div_le_iff₀ hD, div_eq_iff hD.ne']
  refine ⟨by linarith, fun he => ?_⟩
  have := hodd (by linarith)
  omega

end

theorem Truncates.eq_natCast {m n : ℕ} {sticky : Bool} (h : Truncates n m sticky) : m = n ∧ sticky = false := by
  have hle : m ≤ n := by exact_mod_cast h.le
  have hlt : n < m + 1 := by exact_mod_cast h.lt
  obtain rfl : m = n := by omega
  exact ⟨rfl, h.exact_iff.2 rfl⟩

/-- `roundShift` compares the remainder, with what was cut off before, to half the divisor. -/
theorem roundShift_roundsTo {y : ℝ} {m k : ℕ} {sticky : Bool} (hk : 0 < k) (h : Truncates y m sticky) :
    RoundsTo (y / 2 ^ k) (roundShift m k sticky) := by
  obtain ⟨H, hH⟩ : ∃ H, 2 ^ k = 2 * H := ⟨2 ^ (k - 1), by rw [← pow_succ', Nat.sub_add_cancel hk]⟩
  have hHR : (2 : ℝ) ^ k = 2 * H := by exact_mod_cast hH
  have hD : (0 : ℝ) < 2 * H := by rw [← hHR]; positivity
  have hm := Nat.div_add_mod m (2 * H)
  have hlt := Nat.mod_lt m (show 0 < 2 * H by rw [← hH]; positivity)
  rw [hHR, roundShift, hH]
  generalize m / (2 * H) = q at *
  generalize m % (2 * H) = ρ at *
  obtain ⟨t, ht⟩ : ∃ t, y = 2 * H * q + t := ⟨y - 2 * H * q, by ring⟩
  have hrem : Truncates t ρ sticky := by
    have hmR : (m : ℝ) = 2 * H * q + ρ := by exact_mod_cast hm.symm
    obtain ⟨hle, hlt', hexact⟩ := h
    refine ⟨by linarith, by linarith, hexact.trans ?_⟩
    constructor <;> intro he <;> linarith
  have hlow := hrem.le
  have hhigh := hrem.lt
  have htie : 2 * t = 2 * H → ρ = H ∧ sticky = false := fun he =>
    Truncates.eq_natCast (mul_left_cancel₀ two_ne_zero he ▸ hrem)
  split
  · next hup =>
    have hHρ : (H : ℝ) ≤ ρ := by exact_mod_cast (by omega : H ≤ ρ)
    have hρ : (ρ : ℝ) + 1 ≤ 2 * H := by exact_mod_cast hlt
    refine roundsTo_div_of_le_rem hD ht (by linarith) (by linarith) fun he => ?_
    obtain ⟨rfl, hs⟩ := htie he
    simpa [hs] using hup
  · next hdown =>
    have htH : t ≤ H := by
      by_cases hρ : ρ = H
      · have hs : sticky = false := Bool.eq_false_iff.2 fun hs => hdown (.inr ⟨by rw [hρ], .inl hs⟩)
        rw [hrem.exact_iff.1 hs, hρ]
      · have : (ρ : ℝ) + 1 ≤ H := by exact_mod_cast (by omega : ρ + 1 ≤ H)
        linarith
    have h0 : (0 : ℝ) ≤ ρ := ρ.cast_nonneg
    refine roundsTo_div_of_rem_le hD ht (by linarith) (by linarith) fun he => ?_
    obtain ⟨rfl, hs⟩ := htie he
    simpa [hs] using hdown

theorem RoundsTo.le_natCast {y : ℝ} {r n : ℕ} (h : RoundsTo y r) (hy : y ≤ n) : r ≤ n := by
  have hn := (h.dist_le n).1
  rw [Int.cast_natCast, abs_of_nonneg (sub_nonneg.2 hy)] at hn
  exact_mod_cast (by linarith [le_abs_self ((r : ℝ) - y)] : (r : ℝ) ≤ n)

theorem RoundsTo.natCast_le {y : ℝ} {r n : ℕ} (h : RoundsTo y r) (hy : n ≤ y) : n ≤ r := by
  have hn := (h.dist_le n).1
  rw [Int.cast_natCast, abs_of_nonpos (sub_nonpos.2 hy)] at hn
  exact_mod_cast (by linarith [neg_abs_le ((r : ℝ) - y)] : (n : ℝ) ≤ r)

/-- A real half a place below an even integer is rounded up to it. -/
theorem RoundsTo.natCast_le_of_even {y : ℝ} {r n : ℕ} (h : RoundsTo y r) (hn : n % 2 = 0) (hy : (n : ℝ) - 1 / 2 ≤ y) :
    n ≤ r := by
  by_contra hlt
  have hr1 : (r : ℝ) + 1 ≤ n := by exact_mod_cast not_le.1 hlt
  have hnear := neg_abs_le ((r : ℝ) - y)
  have hle := h.1
  have heven := h.2 (by linarith)
  have hn1 : n ≤ r + 1 := by exact_mod_cast (by linarith : (n : ℝ) ≤ r + 1)
  omega

/-! ## Rounding to a pattern -/

/-- The power of two of the last place of the pattern nearest to a number between `m * 2 ^ e` and `(m + 1) * 2 ^ e`. -/
def roundExp (m : ℕ) (e : ℤ) : ℤ := max (e + (Nat.log2 m + 1 : Nat) - 53) (-1074)

/-- The number of last places in that pattern's value. -/
def roundSig (m : ℕ) (e : ℤ) (sticky : Bool) : ℕ :=
  if roundExp m e ≤ e then m * 2 ^ (e - roundExp m e).toNat else roundShift m (roundExp m e - e).toNat sticky

/-- Bits 62:0 of the pattern of value `r * 2 ^ q`. -/
def magBits (q : ℤ) (r : ℕ) : ℕ := if r < 2 ^ 52 then r else (q + 1075).toNat * 2 ^ 52 + (r - 2 ^ 52)

theorem magBits_mod_two (q : ℤ) (r : ℕ) : magBits q r % 2 = r % 2 := by
  unfold magBits
  split <;> omega

theorem roundPack_eq (sg : Bool) (m : ℕ) (e : ℤ) (sticky : Bool) :
    roundPack sg m e sticky =
      if 2047 * 2 ^ 52 ≤ magBits (roundExp m e) (roundSig m e sticky) then infOf sg
      else pack sg (magBits (roundExp m e) (roundSig m e sticky)) := rfl

theorem getLsbD_zero_pack (sg : Bool) {k : ℕ} (hk : k < 2 ^ 63) : (pack sg k).getLsbD 0 = decide (k % 2 = 1) := by
  rw [← BitVec.testBit_toNat, Nat.testBit_zero, toNat_pack sg hk]
  congr 1
  rw [eq_iff_iff]
  omega

/-- `r` last places of the power `q` are `x` rounded, and `q` is the power of the last place that binary64 has at
`x`. -/
structure IsRounding (x : ℝ) (q : ℤ) (r : ℕ) : Prop where
  rounds : RoundsTo (x / 2 ^ q) r
  le_exp : -1074 ≤ q
  lt : x < 2 ^ (q + 53)
  le_of_ne : q ≠ -1074 → 2 ^ (q + 52) ≤ x

/-- Only a magnitude of less than 53 bits is packed unrounded, and then it is exact. -/
theorem roundSig_roundsTo {y : ℝ} {m : ℕ} (e : ℤ) {sticky : Bool} (hm : m ≠ 0) (hsticky : sticky = true → 2 ^ 53 ≤ m)
    (h : Truncates y m sticky) : RoundsTo (y * 2 ^ e / 2 ^ roundExp m e) (roundSig m e sticky) := by
  unfold roundSig
  split
  · next hle =>
    have hs : sticky = false := by
      by_contra hs
      have hbits := (Nat.le_log2 hm).2 (hsticky (by simpa using hs))
      rw [roundExp] at hle
      omega
    rw [h.exact_iff.1 hs, mul_two_zpow_div_of_le _ hle]
    exact_mod_cast roundsTo_natCast _
  · next hlt =>
    rw [mul_two_zpow_div_of_ge _ (not_le.1 hlt).le]
    exact roundShift_roundsTo (by omega) h

theorem roundPack_isRounding {y : ℝ} {m : ℕ} (e : ℤ) {sticky : Bool} (hm : m ≠ 0) (hsticky : sticky = true → 2 ^ 53 ≤ m)
    (h : Truncates y m sticky) : IsRounding (y * 2 ^ e) (roundExp m e) (roundSig m e sticky) := by
  refine ⟨roundSig_roundsTo e hm hsticky h, le_max_right _ _, ?_, fun hne => ?_⟩
  · have hlog : m + 1 ≤ 2 ^ (Nat.log2 m + 1) := Nat.lt_log2_self
    have hy : y < 2 ^ (Nat.log2 m + 1) := h.lt.trans_le (by exact_mod_cast hlog)
    calc y * 2 ^ e < 2 ^ (Nat.log2 m + 1) * 2 ^ e := mul_lt_mul_of_pos_right hy (two_zpow_pos e)
      _ = 2 ^ (e + (Nat.log2 m + 1 : ℕ)) := by rw [zpow_add_nat, mul_comm]
      _ ≤ 2 ^ (roundExp m e + 53) := zpow_le_zpow_right₀ one_le_two (by rw [roundExp]; omega)
  · have hlog : 2 ^ Nat.log2 m ≤ m := Nat.log2_self_le hm
    have hy : (2 : ℝ) ^ Nat.log2 m ≤ y := le_trans (by exact_mod_cast hlog) h.le
    have hexp : roundExp m e + 52 = e + (Nat.log2 m : ℕ) := by
      rw [roundExp] at hne ⊢
      omega
    calc (2 : ℝ) ^ (roundExp m e + 52) = 2 ^ Nat.log2 m * 2 ^ e := by rw [hexp, zpow_add_nat, mul_comm]
      _ ≤ y * 2 ^ e := mul_le_mul_of_nonneg_right hy (two_zpow_pos e).le

/-- The number half a last place above the largest finite number. -/
theorem overflow_threshold : (2 : ℝ) ^ 1024 - 2 ^ 970 = (2 ^ 53 - 1 / 2) * 2 ^ (971 : ℤ) := by
  have h1024 : (2 : ℝ) ^ 1024 = 2 ^ 53 * 2 ^ 971 := by rw [← pow_add]
  have h971 : (2 : ℝ) ^ 971 = 2 * 2 ^ 970 := by rw [← pow_succ']
  rw [show (971 : ℤ) = (971 : ℕ) from rfl, zpow_natCast, h1024, h971]
  generalize (2 : ℝ) ^ 970 = u
  ring

namespace IsRounding
variable {x : ℝ} {q : ℤ} {r : ℕ} (h : IsRounding x q r)
include h

theorem le_two_pow : r ≤ 2 ^ 53 := by
  refine h.rounds.le_natCast ?_
  rw [div_le_iff₀ (two_zpow_pos q), mul_comm]
  exact_mod_cast (h.lt.trans_eq (zpow_add_nat q 53)).le

theorem two_pow_le (hq : q ≠ -1074) : 2 ^ 52 ≤ r := by
  refine h.rounds.natCast_le ?_
  rw [le_div_iff₀ (two_zpow_pos q), mul_comm]
  exact_mod_cast (zpow_add_nat q 52).symm.trans_le (h.le_of_ne hq)

theorem threshold_le_of_overflow (hover : 2047 * 2 ^ 52 ≤ magBits q r) : 2 ^ 1024 - 2 ^ 970 ≤ x := by
  have hr := h.le_two_pow
  have hcases : 972 ≤ q ∨ q = 971 ∧ r = 2 ^ 53 := by
    unfold magBits at hover
    split at hover <;> omega
  rcases hcases with hq | ⟨rfl, rfl⟩
  · calc (2 : ℝ) ^ 1024 - 2 ^ 970 ≤ 2 ^ (1024 : ℤ) := sub_le_self _ (by positivity)
      _ ≤ 2 ^ (q + 52) := zpow_le_zpow_right₀ one_le_two (by omega)
      _ ≤ x := h.le_of_ne (by omega)
  · have hnear := (abs_le.1 h.rounds.1).2
    push_cast at hnear
    rw [overflow_threshold, ← le_div_iff₀ (two_zpow_pos _)]
    linarith

theorem overflow_of_threshold_le (hx : 2 ^ 1024 - 2 ^ 970 ≤ x) : 2047 * 2 ^ 52 ≤ magBits q r := by
  rw [overflow_threshold] at hx
  have hq : 971 ≤ q := by
    by_contra hlt
    have hx' : x < 2 ^ (971 + (52 : ℕ) : ℤ) := h.lt.trans_le (zpow_le_zpow_right₀ one_le_two (by omega))
    have hpos := two_zpow_pos 971
    rw [zpow_add_nat] at hx'
    generalize (2 : ℝ) ^ (971 : ℤ) = u at *
    linarith
  have hnormal := h.two_pow_le (by omega)
  have hcarry : q = 971 → 2 ^ 53 ≤ r := by
    rintro rfl
    rw [← le_div_iff₀ (two_zpow_pos _)] at hx
    exact h.rounds.natCast_le_of_even (by norm_num) (by exact_mod_cast hx)
  unfold magBits
  split <;> omega

/-- The magnitude overflows from half a last place above the largest finite number on. -/
theorem overflow_iff : 2047 * 2 ^ 52 ≤ magBits q r ↔ 2 ^ 1024 - 2 ^ 970 ≤ x :=
  ⟨h.threshold_le_of_overflow, h.overflow_of_threshold_le⟩

/-- No multiple of the last place is nearer. -/
theorem dist_le_mul (z : ℤ) : |r * 2 ^ q - x| ≤ |z * 2 ^ q - x| ∧
    (|r * 2 ^ q - x| = |z * 2 ^ q - x| → z ≠ r → r % 2 = 0) := by
  have hq := two_zpow_pos q
  obtain ⟨hle, htie⟩ := h.rounds.dist_le z
  rw [abs_mul_sub_eq hq, abs_mul_sub_eq hq]
  exact ⟨mul_le_mul_of_nonneg_right hle hq.le, fun he => htie (mul_right_cancel₀ hq.ne' he)⟩

/-- A finite number with a smaller last place lies below `x`, and `2 ^ 52` last places of `x` lie between the two. -/
theorem dist_lt_of_lt {z p : ℤ} (hz : |z| < 2 ^ 53) (hp : -1074 ≤ p) (hpq : p < q) :
    |r * 2 ^ q - x| < |z * 2 ^ p - x| := by
  have hlt : (z : ℝ) * 2 ^ p < 2 ^ 52 * 2 ^ q := by
    have hz' : (z : ℝ) < 2 ^ 53 := by exact_mod_cast (le_abs_self z).trans_lt hz
    have hp1 : (2 : ℝ) ^ (p + (1 : ℕ)) ≤ 2 ^ q := zpow_le_zpow_right₀ one_le_two hpq
    rw [zpow_add_nat] at hp1
    linarith [mul_lt_mul_of_pos_right hz' (two_zpow_pos p)]
  have hx : 2 ^ 52 * 2 ^ q ≤ x := by
    rw [mul_comm, ← zpow_add_nat]
    exact h.le_of_ne (by omega)
  calc |r * 2 ^ q - x| ≤ |((2 ^ 52 : ℤ) : ℝ) * 2 ^ q - x| := (h.dist_le_mul _).1
    _ = x - 2 ^ 52 * 2 ^ q := by
        rw [abs_sub_comm, Int.cast_pow, Int.cast_ofNat, abs_of_nonneg (by linarith)]
    _ < x - z * 2 ^ p := by linarith
    _ ≤ |z * 2 ^ p - x| := by
        rw [abs_sub_comm]
        exact le_abs_self _

/-- The finite numbers are the integers of at most 53 bits times powers of two from `2 ^ -1074` on; none is nearer. -/
theorem dist_le {z p : ℤ} (hz : |z| < 2 ^ 53) (hp : -1074 ≤ p) :
    |r * 2 ^ q - x| ≤ |z * 2 ^ p - x| ∧
      (|r * 2 ^ q - x| = |z * 2 ^ p - x| → (z * 2 ^ p : ℝ) ≠ r * 2 ^ q → r % 2 = 0) := by
  rcases le_or_gt q p with hqp | hpq
  · obtain ⟨k, rfl⟩ := Int.le.dest hqp
    have hmul : (z : ℝ) * 2 ^ (q + k) = (z * 2 ^ k : ℤ) * 2 ^ q := by
      rw [zpow_add_nat]
      push_cast
      ring
    obtain ⟨hle, htie⟩ := h.dist_le_mul (z * 2 ^ k)
    rw [hmul]
    exact ⟨hle, fun he hne => htie he fun heq => hne (by rw [heq, Int.cast_natCast])⟩
  · have hlt := h.dist_lt_of_lt hz hp hpq
    exact ⟨hlt.le, fun he => absurd he hlt.ne⟩

/-- A magnitude that does not overflow has the value of its pattern: `r` is a subnormal's fraction, a normal number's
significand, or `2 ^ 53`, which is the next power of two. -/
theorem fMag_pack (sg : Bool) (hlt : magBits q r < 2047 * 2 ^ 52) : fMag (pack sg (magBits q r)) = r * 2 ^ q := by
  have hr := h.le_two_pow
  have hq := h.le_exp
  have hk : magBits q r < 2 ^ 63 := by omega
  have hexp := fExp_pack sg hk
  have hfrac := fFrac_pack sg hk
  obtain ⟨n, rfl⟩ : ∃ n : ℕ, q = n - 1075 := ⟨(q + 1075).toNat, by omega⟩
  by_cases hsub : r < 2 ^ 52
  · obtain rfl : n = 1 := by
      by_contra hne
      have := h.two_pow_le (by omega)
      omega
    have hbits : magBits ((1 : ℕ) - 1075) r = r := if_pos hsub
    rw [hbits] at hexp hfrac ⊢
    rw [fMag_of_fExp_eq_zero (by omega), hfrac, Nat.mod_eq_of_lt hsub]
    rfl
  · have hbits : magBits (n - 1075) r = n * 2 ^ 52 + (r - 2 ^ 52) := by
      rw [magBits, if_neg hsub, sub_add_cancel, Int.toNat_natCast]
    rw [hbits] at hexp hfrac ⊢
    rcases Nat.lt_or_eq_of_le hr with hnorm | rfl
    · have hexp' : fExp (pack sg (n * 2 ^ 52 + (r - 2 ^ 52))) = n := by omega
      have hfrac' : fFrac (pack sg (n * 2 ^ 52 + (r - 2 ^ 52))) = r - 2 ^ 52 := by omega
      have hmant : 2 ^ 52 + (r - 2 ^ 52) = r := by omega
      rw [fMag_of_fExp_ne_zero (by omega), hexp', hfrac', hmant]
    · have hexp' : fExp (pack sg (n * 2 ^ 52 + (2 ^ 53 - 2 ^ 52))) = n + 1 := by omega
      have hfrac' : fFrac (pack sg (n * 2 ^ 52 + (2 ^ 53 - 2 ^ 52))) = 0 := by omega
      have hpow : ((n + 1 : ℕ) : ℤ) - 1075 = n - 1075 + (1 : ℕ) := by omega
      rw [fMag_of_fExp_ne_zero (by omega), hexp', hfrac', hpow, zpow_add_nat]
      push_cast
      ring

end IsRounding

/-- Every finite pattern's value is an integer of at most 53 bits times a power of two. -/
theorem exists_fVal_eq (d : Word64) (sg : Bool) :
    ∃ z p : ℤ, |z| < 2 ^ 53 ∧ -1074 ≤ p ∧ signed sg (fVal d) = z * 2 ^ p := by
  refine ⟨if sg != fSign d then -fMant d else fMant d, fPow d, ?_, le_fPow d, ?_⟩
  · have := fMant_lt d
    split
    · rw [abs_neg, Nat.abs_cast]
      exact_mod_cast this
    · rw [Nat.abs_cast]
      exact_mod_cast this
  · rw [fVal_eq_signed, fMag]
    cases sg <;> cases fSign d <;> simp [signed]

theorem IsRounding.nearest {x : ℝ} {q : ℤ} {r : ℕ} (h : IsRounding x q r) (hx : 0 < x) (sg : Bool) :
    Nearest (signed sg x) (if 2047 * 2 ^ 52 ≤ magBits q r then infOf sg else pack sg (magBits q r)) := by
  have hneg : decide (signed sg x < 0) = sg := by
    cases sg
    · simpa [signed] using hx.le
    · simpa [signed] using hx
  rw [Nearest, hneg, abs_signed, abs_of_pos hx]
  by_cases hover : 2047 * 2 ^ 52 ≤ magBits q r
  · rw [if_pos hover, if_pos (h.overflow_iff.1 hover)]
    exact ⟨fSign_infOf sg, by cases sg <;> rfl⟩
  · have hk : magBits q r < 2 ^ 63 := by omega
    rw [if_neg hover, if_neg (mt h.overflow_iff.2 hover)]
    have hfin : FinitePattern (pack sg (magBits q r)) := by
      rw [finitePattern_iff, fExp_pack sg hk]
      omega
    have hval : (fVal (pack sg (magBits q r)) : ℝ) = signed sg (r * 2 ^ q) := by
      rw [fVal_eq_signed, fSign_pack sg hk, h.fMag_pack sg (not_le.1 hover)]
    refine ⟨fSign_pack sg hk, hfin, fun y _ => ?_⟩
    obtain ⟨z, p, hz, hp, hy⟩ := exists_fVal_eq y sg
    obtain ⟨hle, htie⟩ := h.dist_le hz hp
    rw [abs_signed_sub, abs_signed_sub, hval, signed_signed, hy]
    refine ⟨hle, fun he hne => ?_⟩
    have hreal : (z * 2 ^ p : ℝ) ≠ r * 2 ^ q := by
      rw [← hy, ← signed_signed sg (r * 2 ^ q), ← hval]
      exact fun heq => hne (by exact_mod_cast signed_injective sg heq)
    have heven := htie he hreal
    rw [getLsbD_zero_pack sg hk, magBits_mod_two, heven]
    rfl

/-- Packing rounds to nearest: a truncated significand of more than 53 bits with its sticky bit decides as the exact
one. -/
theorem nearest_roundPack {y : ℝ} {m : ℕ} {sticky : Bool} (sg : Bool) (e : ℤ) (hm : m ≠ 0)
    (hsticky : sticky = true → 2 ^ 53 ≤ m) (h : Truncates y m sticky) :
    Nearest (signed sg (y * 2 ^ e)) (roundPack sg m e sticky) := by
  have hy : 0 < y := lt_of_lt_of_le (by exact_mod_cast Nat.pos_of_ne_zero hm) h.le
  rw [roundPack_eq]
  exact (roundPack_isRounding e hm hsticky h).nearest (mul_pos hy (two_zpow_pos e)) sg

end Sys2Proof.Machine

/-! The default of `FPNUM` (R191, R194 to R197, R211): its results on finite operands, each an exact magnitude or the
integer part of one packed once, and on NaN, infinite and zero operands. -/

namespace Sys2Proof.Machine

/-! ## The exact results that are truncated before they are rounded -/

theorem truncates_natCast (m : ℕ) : Truncates m m false := ⟨le_rfl, lt_add_one _, by simp⟩

theorem truncates_div (n : ℕ) {b : ℕ} (hb : 0 < b) : Truncates (n / b) (n / b) (decide (n % b ≠ 0)) := by
  have hbR : (0 : ℝ) < b := by exact_mod_cast hb
  have hn : (n : ℝ) = b * (n / b : ℕ) + (n % b : ℕ) := by exact_mod_cast (Nat.div_add_mod n b).symm
  have hlt : ((n % b : ℕ) : ℝ) < b := by exact_mod_cast Nat.mod_lt n hb
  refine ⟨Nat.cast_div_le, ?_, ?_⟩
  · rw [div_lt_iff₀ hbR]
    linarith
  · rw [div_eq_iff hbR.ne', decide_eq_false_iff_not, not_not, ← Nat.cast_eq_zero (R := ℝ)]
    constructor <;> intro h <;> linarith

theorem truncates_sqrt (n : ℕ) : Truncates (Real.sqrt n) (Nat.sqrt n) (decide (Nat.sqrt n * Nat.sqrt n ≠ n)) := by
  refine ⟨Real.nat_sqrt_le_real_sqrt, Real.real_sqrt_lt_nat_sqrt_succ, ?_⟩
  rw [Real.sqrt_eq_iff_mul_self_eq n.cast_nonneg (Nat.cast_nonneg _), decide_eq_false_iff_not, not_not, eq_comm]
  exact_mod_cast Iff.rfl

theorem sqrtBits_eq_sqrt {n b r : ℕ} (hle : r * r ≤ n) (hlt : n < (r + 2 ^ b) * (r + 2 ^ b)) :
    sqrtBits n b r = Nat.sqrt n := by
  induction b generalizing r with
  | zero => exact Nat.eq_sqrt.2 ⟨hle, hlt⟩
  | succ b ih =>
    rw [sqrtBits]
    split
    · next h => exact ih h (by rwa [Nat.add_assoc, ← Nat.two_mul, ← pow_succ'])
    · next h => exact ih hle (not_le.1 h)

/-! ## Correct rounding -/

/-- The result is a number: `v` rounded to nearest, or, where `v` is 0, the zero of sign `sg`. -/
def CorrectlyRounded (r : Option Word64) (v : ℝ) (sg : Bool) : Prop :=
  ∃ d, r = some d ∧ (v ≠ 0 → Nearest v d) ∧ (v = 0 → d = if sg then 0x8000000000000000 else 0)

theorem CorrectlyRounded.of_zero {v : ℝ} (hv : v = 0) (sg : Bool) : CorrectlyRounded (some (zeroOf sg)) v sg :=
  ⟨_, rfl, fun h => absurd hv h, fun _ => zeroOf_eq sg⟩

theorem CorrectlyRounded.of_roundPack {v y : ℝ} {m : ℕ} {e : ℤ} {sticky sg : Bool} (hm : m ≠ 0)
    (hsticky : sticky = true → 2 ^ 53 ≤ m) (h : Truncates y m sticky) (hv : v = signed sg (y * 2 ^ e)) (sh : Bool) :
    CorrectlyRounded (some (roundPack sg m e sticky)) v sh := by
  have hy : y ≠ 0 := (lt_of_lt_of_le (by exact_mod_cast Nat.pos_of_ne_zero hm) h.le).ne'
  have hv0 : v ≠ 0 := by
    rw [hv, Ne, signed_eq_zero_iff]
    exact mul_ne_zero hy (two_zpow_pos e).ne'
  exact ⟨_, rfl, fun _ => hv ▸ nearest_roundPack sg e hm hsticky h, fun h0 => absurd h0 hv0⟩

theorem signed_natAbs (t : ℤ) : signed (decide (t < 0)) t.natAbs = t := by
  rw [Nat.cast_natAbs, Int.cast_abs]
  by_cases hneg : t < 0
  · simp [signed, hneg, abs_of_neg (Int.cast_lt_zero (R := ℝ).2 hneg)]
  · simp [signed, hneg, abs_of_nonneg (Int.cast_nonneg (R := ℝ) (not_lt.1 hneg))]

theorem scaled_mul_two_zpow (d : Word64) {e : ℤ} (he : e ≤ fPow d) : (scaled d e : ℝ) * 2 ^ e = fVal d := by
  have hpow : (2 : ℝ) ^ (fPow d - e).toNat * 2 ^ e = 2 ^ fPow d := by
    rw [← zpow_natCast, Int.toNat_of_nonneg (sub_nonneg.2 he), ← zpow_add₀ two_ne_zero, sub_add_cancel]
  rw [fVal_eq_signed, fMag, ← hpow, scaled]
  cases fSign d <;> simp [signed, mul_assoc]

section
variable {a b : Word64} (ha : FinitePattern a) (hb : FinitePattern b)
include ha hb

theorem fpAdd_of_finite : fpAdd a b = some (addFinite a b) := by
  simp [fpAdd, ha.isNan_eq_false, hb.isNan_eq_false, ha.isInf_eq_false, hb.isInf_eq_false]

theorem fpMul_of_finite : fpMul a b =
    if isZero a || isZero b then some (zeroOf (fSign a != fSign b))
    else some (roundPack (fSign a != fSign b) (fMant a * fMant b) (fPow a + fPow b) false) := by
  simp [fpMul, ha.isNan_eq_false, hb.isNan_eq_false, ha.isInf_eq_false, hb.isInf_eq_false]

theorem fpDiv_of_finite (hb0 : fVal b ≠ 0) : fpDiv a b =
    if isZero a then some (zeroOf (fSign a != fSign b))
    else some (roundPack (fSign a != fSign b) (fMant a * 2 ^ 110 / fMant b) (fPow a - fPow b - 110)
      (decide (fMant a * 2 ^ 110 % fMant b ≠ 0))) := by
  simp [fpDiv, ha.isNan_eq_false, hb.isNan_eq_false, ha.isInf_eq_false, hb.isInf_eq_false,
    isZero_eq_false_of_fVal hb0]

theorem fpAdd_correctlyRounded :
    CorrectlyRounded (fpAdd a b) (fVal a + fVal b) (fSign a && fSign b) := by
  have hsum : (fVal a + fVal b : ℝ) =
      (scaled a (min (fPow a) (fPow b)) + scaled b (min (fPow a) (fPow b)) : ℤ) * 2 ^ min (fPow a) (fPow b) := by
    rw [Int.cast_add, add_mul, scaled_mul_two_zpow a (min_le_left _ _), scaled_mul_two_zpow b (min_le_right _ _)]
  rw [fpAdd_of_finite ha hb, addFinite, hsum]
  split
  · next h0 => exact .of_zero (by rw [h0, Int.cast_zero, zero_mul]) _
  · next h0 =>
    exact .of_roundPack (Int.natAbs_ne_zero.2 h0) (by simp) (truncates_natCast _)
      (by rw [signed_mul, signed_natAbs]) _

theorem fpMul_correctlyRounded :
    CorrectlyRounded (fpMul a b) (fVal a * fVal b) (fSign a != fSign b) := by
  have hprod : (fVal a * fVal b : ℝ) =
      signed (fSign a != fSign b) ((fMant a * fMant b : ℕ) * 2 ^ (fPow a + fPow b)) := by
    rw [fVal_eq_signed, fVal_eq_signed, signed_mul_signed, fMag, fMag, zpow_add₀ two_ne_zero, Nat.cast_mul,
      mul_mul_mul_comm]
  rw [fpMul_of_finite ha hb]
  split
  · next h0 =>
    refine .of_zero ?_ _
    rw [Bool.or_eq_true, ← fVal_eq_zero_iff, ← fVal_eq_zero_iff] at h0
    exact_mod_cast mul_eq_zero.2 h0
  · next h0 =>
    rw [Bool.or_eq_true, not_or, isZero_eq_true_iff_fMant, isZero_eq_true_iff_fMant] at h0
    exact .of_roundPack (Nat.mul_ne_zero h0.1 h0.2) (by simp) (truncates_natCast _) hprod _

theorem fpDiv_correctlyRounded (hb0 : fVal b ≠ 0) :
    CorrectlyRounded (fpDiv a b) (fVal a / fVal b) (fSign a != fSign b) := by
  have hmb := fMant_pos_of_fVal hb0
  have hquot : (fVal a / fVal b : ℝ) =
      signed (fSign a != fSign b) ((fMant a * 2 ^ 110 : ℕ) / fMant b * 2 ^ (fPow a - fPow b - 110)) := by
    have hpow : (2 : ℝ) ^ (fPow a - fPow b - 110) = 2 ^ fPow a / 2 ^ fPow b / 2 ^ 110 := by
      rw [zpow_sub₀ two_ne_zero, zpow_sub₀ two_ne_zero]
      rfl
    rw [fVal_eq_signed, fVal_eq_signed, signed_div_signed, fMag, fMag, hpow, Nat.cast_mul, Nat.cast_pow, Nat.cast_ofNat]
    congr 1
    field_simp
  rw [fpDiv_of_finite ha hb hb0]
  split
  · next h0 =>
    refine .of_zero ?_ _
    rw [← fVal_eq_zero_iff] at h0
    rw [h0, Rat.cast_zero, zero_div]
  · next h0 =>
    have hma : 0 < fMant a := Nat.pos_of_ne_zero (mt (isZero_eq_true_iff_fMant a).2 h0)
    have hlarge : 2 ^ 53 ≤ fMant a * 2 ^ 110 / fMant b := by
      rw [Nat.le_div_iff_mul_le hmb]
      have := fMant_lt b
      omega
    exact .of_roundPack (by omega) (fun _ => hlarge) (truncates_div _ hmb) hquot _

theorem fpSub_correctlyRounded :
    CorrectlyRounded (fpSub a b) (fVal a - fVal b) (fSign a && !fSign b) := by
  have h := fpAdd_correctlyRounded ha (finitePattern_fpNeg hb)
  rwa [fVal_fpNeg, ← sub_eq_add_neg, fSign_fpNeg] at h

end

/-- The root of a positive number, its significand scaled so that the power of two that is left is a square. -/
theorem sqrt_fVal {a : Word64} (hpos : 0 < fVal a) {h : ℤ} {k : ℕ} (hpow : fPow a = h + h + k) :
    Real.sqrt (fVal a) = Real.sqrt (fMant a * 2 ^ k : ℕ) * 2 ^ h := by
  have hsquare : (fVal a : ℝ) = (fMant a * 2 ^ k : ℕ) * (2 ^ h * 2 ^ h) := by
    rw [fVal_eq_signed, fSign_of_fVal_pos hpos, signed, if_neg Bool.false_ne_true, fMag, hpow, zpow_add_nat,
      zpow_add₀ two_ne_zero, Nat.cast_mul, Nat.cast_pow, Nat.cast_ofNat]
    ring
  rw [hsquare, Real.sqrt_mul (Nat.cast_nonneg _), Real.sqrt_mul_self (two_zpow_pos h).le]

theorem nearest_sqrt_fVal {a : Word64} (hpos : 0 < fVal a) {h : ℤ} {k : ℕ} (hk : k = 112 ∨ k = 113)
    (hpow : fPow a = h + h + k) :
    Nearest (Real.sqrt (fVal a)) (roundPack false (sqrtBits (fMant a * 2 ^ k) 84 0) h
      (decide (sqrtBits (fMant a * 2 ^ k) 84 0 * sqrtBits (fMant a * 2 ^ k) 84 0 ≠ fMant a * 2 ^ k))) := by
  have hn : 2 ^ 112 ≤ fMant a * 2 ^ k ∧ fMant a * 2 ^ k < 2 ^ 168 := by
    have hm := fMant_pos_of_fVal hpos.ne'
    have hlt := fMant_lt a
    rcases hk with rfl | rfl <;> omega
  have hlarge : 2 ^ 53 ≤ Nat.sqrt (fMant a * 2 ^ k) := Nat.le_sqrt.2 (by omega)
  rw [sqrt_fVal hpos hpow, sqrtBits_eq_sqrt (Nat.zero_le _) (by omega)]
  exact nearest_roundPack false h (by omega) (fun _ => hlarge) (truncates_sqrt _)

theorem fpSqrt_nearest {a : Word64} (ha : FinitePattern a) (hpos : 0 < fVal a) :
    ∃ d, fpSqrt a = some d ∧ Nearest (Real.sqrt (fVal a)) d := by
  simp only [fpSqrt, ha.isNan_eq_false, isZero_eq_false_of_fVal hpos.ne', fSign_of_fVal_pos hpos, ha.isInf_eq_false,
    Bool.false_eq_true, if_false]
  generalize hk : (if fPow a % 2 = 0 then 112 else 113) = k
  obtain ⟨hk', hpow⟩ : (k = 112 ∨ k = 113) ∧ fPow a = (fPow a - k) / 2 + (fPow a - k) / 2 + k := by
    split at hk <;> omega
  exact ⟨_, rfl, nearest_sqrt_fVal hpos hk' hpow⟩

/-! ## NaN, infinite and zero operands -/

section
variable {a b : Word64} (h : NanPattern a ∨ NanPattern b)
include h

theorem isNan_or_of_nanPattern : (isNan a || isNan b) = true := by
  rwa [Bool.or_eq_true, isNan_eq_true_iff, isNan_eq_true_iff]

theorem fpAdd_of_nan : fpAdd a b = none := if_pos (isNan_or_of_nanPattern h)

theorem fpSub_of_nan : fpSub a b = none := by
  refine if_pos ?_
  rw [isNan_fpNeg]
  exact isNan_or_of_nanPattern h

theorem fpMul_of_nan : fpMul a b = none := if_pos (isNan_or_of_nanPattern h)

theorem fpDiv_of_nan : fpDiv a b = none := if_pos (isNan_or_of_nanPattern h)

end

theorem fpSqrt_of_nan {a : Word64} (h : NanPattern a) : fpSqrt a = none := if_pos ((isNan_eq_true_iff a).2 h)

section
variable (sg sh : Bool)

theorem fpAdd_infOf_infOf : fpAdd (infOf sg) (infOf sh) = if sg = sh then some (infOf sg) else none := by
  cases sg <;> cases sh <;> simp [fpAdd]

theorem fpSub_infOf_infOf : fpSub (infOf sg) (infOf sh) = if sg = sh then none else some (infOf sg) := by
  rw [fpSub, fpNeg_infOf, fpAdd_infOf_infOf]
  cases sg <;> cases sh <;> rfl

theorem fpMul_infOf_infOf : fpMul (infOf sg) (infOf sh) = some (infOf (sg != sh)) := by simp [fpMul]

theorem fpMul_infOf_zeroOf : fpMul (infOf sg) (zeroOf sh) = none := by simp [fpMul]

theorem fpMul_zeroOf_infOf : fpMul (zeroOf sg) (infOf sh) = none := by simp [fpMul]

theorem fpDiv_infOf_infOf : fpDiv (infOf sg) (infOf sh) = none := by simp [fpDiv]

theorem fpDiv_zeroOf_zeroOf : fpDiv (zeroOf sg) (zeroOf sh) = none := by simp [fpDiv]

theorem fpSqrt_zeroOf : fpSqrt (zeroOf sg) = some (zeroOf sg) := by simp [fpSqrt]

theorem fpSqrt_infOf : fpSqrt (infOf sg) = if sg then none else some (infOf sg) := by
  cases sg <;> simp [fpSqrt]

end

section
variable {b : Word64} (hb : FinitePattern b) (sg : Bool)
include hb

theorem fpAdd_infOf_left : fpAdd (infOf sg) b = some (infOf sg) := by
  simp [fpAdd, hb.isNan_eq_false, hb.isInf_eq_false]

theorem fpAdd_infOf_right : fpAdd b (infOf sg) = some (infOf sg) := by
  simp [fpAdd, hb.isNan_eq_false, hb.isInf_eq_false]

theorem fpSub_infOf_left : fpSub (infOf sg) b = some (infOf sg) := fpAdd_infOf_left (finitePattern_fpNeg hb) sg

theorem fpSub_infOf_right : fpSub b (infOf sg) = some (infOf !sg) := by
  rw [fpSub, fpNeg_infOf, fpAdd_infOf_right hb]

theorem fpDiv_infOf_left : fpDiv (infOf sg) b = some (infOf (sg != fSign b)) := by
  simp [fpDiv, hb.isNan_eq_false, hb.isInf_eq_false]

theorem fpDiv_infOf_right : fpDiv b (infOf sg) = some (zeroOf (sg != fSign b)) := by
  simp [fpDiv, hb.isNan_eq_false, hb.isInf_eq_false, bne_comm]

variable (hb0 : fVal b ≠ 0)
include hb0

theorem fpMul_infOf_left : fpMul (infOf sg) b = some (infOf (sg != fSign b)) := by
  simp [fpMul, hb.isNan_eq_false, isZero_eq_false_of_fVal hb0]

theorem fpMul_infOf_right : fpMul b (infOf sg) = some (infOf (sg != fSign b)) := by
  simp [fpMul, hb.isNan_eq_false, isZero_eq_false_of_fVal hb0, bne_comm]

theorem fpDiv_zeroOf_right : fpDiv b (zeroOf sg) = some (infOf (sg != fSign b)) := by
  simp [fpDiv, hb.isNan_eq_false, hb.isInf_eq_false, isZero_eq_false_of_fVal hb0, bne_comm]

end

theorem fpSqrt_of_neg {a : Word64} (ha : FinitePattern a) (hneg : fVal a < 0) : fpSqrt a = none := by
  simp [fpSqrt, ha.isNan_eq_false, isZero_eq_false_of_fVal hneg.ne, fSign_of_fVal_neg hneg]

end Sys2Proof.Machine

namespace Sys2Proof.Proofs
open Sys2Proof.Machine

/-- Settles O57: each result is the exact one, or its integer part with a sticky bit, packed once. -/
theorem finiteFloatArithmeticIsRoundedToNearest : Obligations.FiniteFloatArithmeticIsRoundedToNearest := by
  refine fun a b ha hb => ⟨fpAdd_correctlyRounded ha hb, fpSub_correctlyRounded ha hb, fpMul_correctlyRounded ha hb,
    fun hb0 => ?_, fpSqrt_nearest ha⟩
  obtain ⟨d, hd, hnear, hzero⟩ := fpDiv_correctlyRounded ha hb hb0
  have hquot : (fVal a / fVal b : ℝ) = 0 ↔ fVal a = 0 := by simp [hb0]
  exact ⟨d, hd, fun h => hnear (mt hquot.1 h), fun h => hzero (hquot.2 h)⟩

/-- Settles O58: the classes of the operands choose the branch of each function. -/
theorem floatArithmeticOnSpecialOperands : Obligations.FloatArithmeticOnSpecialOperands := by
  refine fun a b => ⟨fun h => ⟨fpAdd_of_nan h, fpSub_of_nan h, fpMul_of_nan h, fpDiv_of_nan h⟩, fpSqrt_of_nan,
    fun sg sh => ?_, fun sg hb => ?_, fpMul_infOf_infOf, fpSqrt_zeroOf, fpSqrt_infOf false, fpSqrt_infOf true,
    fpSqrt_of_neg⟩
  · exact ⟨infOf_eq sg, fpAdd_infOf_infOf sg sh, fpSub_infOf_infOf sg sh, fpMul_infOf_zeroOf sg sh,
      fpMul_zeroOf_infOf sh sg, fpDiv_infOf_infOf sg sh, fpDiv_zeroOf_zeroOf sg sh⟩
  · exact ⟨fpAdd_infOf_left hb sg, fpAdd_infOf_right hb sg, fpSub_infOf_left hb sg, fpSub_infOf_right hb sg,
      fpDiv_infOf_left hb sg, fpDiv_infOf_right hb sg,
      fun hb0 => ⟨fpMul_infOf_left hb sg hb0, fpMul_infOf_right hb sg hb0, fpDiv_zeroOf_right hb sg hb0⟩⟩

end Sys2Proof.Proofs

/-! The two-operand and the one-operand floating-point instructions (44_fp2.md, 45_fp1.md): the write-back of a pattern
with the flags that go with it, and the load and store of 64 bits. -/

namespace Sys2Proof.Machine

/-! ## A pattern written back with flags (R206, R208, R209, R228 to R232) -/

theorem State.givesF_writeBackF (s : State) (j : FReg) (d : Word64) (fl : Flags) :
    GivesF (.next ((s.writeF j d).setFlags fl)) s j d fl := by
  have hread : ((s.writeF j d).setFlags fl).readF j = d := by
    rw [State.readF_congr (State.setFlags_f _ fl), State.readF_writeF_same]
  exact ⟨_, rfl, hread, (s.changes_writeF j d).trans (State.changes_setFlags _ fl)⟩

theorem State.givesF_putF (s : State) (j : FReg) (d : Word64) : GivesF (.next (s.putF j d)) s j d (allF s.flags d) := by
  rw [← Flags.setAllF_eq_allF]
  exact s.givesF_writeBackF j d _

theorem State.givesF_writeF (s : State) (j : FReg) (d : Word64) : GivesF (.next (s.writeF j d)) s j d s.flags :=
  ⟨_, rfl, s.readF_writeF_same j d, s.changes_writeF j d⟩

/-- An instruction that gives its operand's register a function of the operand meets the rule of the format (R225). -/
theorem Fp1Rule.of_givesF {mk : FReg → Instr} {op : Nat} {res : Word64 → Word64} {fl : Flags → Word64 → Flags}
    (hbits : ∀ f, Laws.FixedBits.Statement (mk f))
    (hgives : ∀ f s, GivesF (exec (mk f) s) s f (res (s.readF f)) (fl s.flags (res (s.readF f))))
    (hrow : ∀ f, Laws.fixedBits (mk f) = [(31, 22, 72 + op)] := by intros; rfl) : Fp1Rule mk op res fl :=
  fun f s => ⟨.of_fixedBits (hbits f) (by simp [hrow]), hgives f s⟩

/-- R205: an instruction that writes back one function of `FPNUM` meets the rule of the format. -/
theorem Fp2Rule.of_fp2 {mk : FReg → FReg → Instr} {op : Nat} {res : FpNum → Word64 → Option Word64}
    (hbits : ∀ f g, Laws.FixedBits.Statement (mk f g))
    (hrow : ∀ f g, Laws.fixedBits (mk f g) = [(31, 22, 80 + op)] := by intros; rfl)
    (hexec : ∀ f g s, exec (mk f g) s = fp2 Config.fpnum res f g s := by intros; rfl) :
    Fp2Rule mk op (res Config.fpnum) := by
  refine fun f g s => ⟨.of_fixedBits (hbits f g) (by simp [hrow]), ?_⟩
  rw [hexec]
  exact s.putResult_givesResult g _

/-! ## Load and store of 64 bits (R55, R206, R207) -/

/-- The changes of a part and of one after it that stores nothing. -/
theorem Changes.trans_nil {s t u : State} {rs rs' : List Reg} {fl fl' : Flags} {fs fs' : List FReg}
    {l : List (Word × Word)} {n n' : Nat} (h : Changes s t rs fl fs l n) (h' : Changes t u rs' fl' fs' [] n') :
    Changes s u (rs ++ rs') fl' (fs ++ fs') l (n + n') := by
  obtain ⟨hregs, hflags, hf, hstores, hdraws, ⟨hmode, hibuf, hstop⟩, hm, hirq, hmap, hvec, hprev⟩ := h
  obtain ⟨hregs', hflags', hf', hstores', hdraws', ⟨hmode', hibuf', hstop'⟩, hm', hirq', hmap', hvec', hprev'⟩ := h'
  exact ⟨hregs.trans hmode hregs', hflags.trans hmode hflags', hf.trans hf', hstores.trans_nil hstores',
    by rw [hdraws', hdraws, Nat.add_assoc],
    ⟨hmode'.trans hmode, hibuf'.trans hibuf, hstop'.trans hstop⟩,
    ⟨hm'.trans hm, hirq'.trans hirq, hmap'.trans hmap, hvec'.trans hvec, hprev'.trans hprev⟩⟩

/-- A two-word store changes its two words, the high one at the lower address, and the record of stores only. -/
theorem State.changes_of_writeMem2 {s t : State} {a : Word} {d : Word64} (h : s.writeMem2 a d = .next t) :
    Changes s t [] s.flags [] [(a, d.extractLsb' 32 32), (a + 1, d.extractLsb' 0 32)] 0 := by
  obtain ⟨-, -, rfl⟩ := State.writeMem2_eq_next.1 h
  exact ⟨⟨fun _ _ => rfl, fun _ => rfl, fun _ => rfl⟩, ⟨rfl, fun _ => rfl, fun _ => rfl⟩, fun _ _ => rfl,
    stores_writeAll (by simp) rfl rfl, rfl, ⟨rfl, rfl, rfl⟩, rfl, rfl, rfl, rfl, rfl⟩

theorem execFld_givesF {x : Reg} (g : FReg) {s : State} {p q : Word} (hp : Readable s (s.readReg x) p)
    (hq : Readable s (s.readReg x + 1) q) : GivesF (execFld x g s) s g (p ++ q) (allF s.flags (p ++ q)) := by
  rw [execFld, State.readMem2_eq_next.2 ⟨p, q, hp, hq, rfl⟩, andThen_next]
  exact s.givesF_putF g _

theorem execFst_of_storable {x : Reg} (g : FReg) {s : State} (hfirst : Storable s (s.readReg x))
    (hsecond : Storable s (s.readReg x + 1)) :
    ∃ t, execFst x g s = .next t ∧ Changes s t [] (allF s.flags (s.readF g)) []
      [(s.readReg x, (s.readF g).extractLsb' 32 32), (s.readReg x + 1, (s.readF g).extractLsb' 0 32)] 0 := by
  obtain ⟨u, hu⟩ : ∃ u, s.writeMem2 (s.readReg x) (s.readF g) = .next u :=
    ⟨_, State.writeMem2_eq_next.2 ⟨hfirst, hsecond, rfl⟩⟩
  have hstore := State.changes_of_writeMem2 hu
  have ⟨_, ⟨hflags, _⟩, _⟩ := hstore
  rw [execFst, hu, andThen_next, hflags, Flags.setAllF_eq_allF]
  exact ⟨_, rfl, hstore.trans_nil (u.changes_setFlags _)⟩

end Sys2Proof.Machine

namespace Sys2Proof.Proofs
open Sys2Proof.Machine

/-- Settles O24: all five write the result of a function of `FPNUM` back. -/
theorem floatUnaryWritesItsResult : Obligations.FloatUnaryWritesItsResult :=
  ⟨.of_fp2 (res := FpNum.sqrt) Laws.FixedBits.fsqrt, .of_fp2 (res := fun num a => some (num.sin a)) Laws.FixedBits.fsin,
    .of_fp2 (res := fun num a => some (num.cos a)) Laws.FixedBits.fcos,
    .of_fp2 (res := fun num a => some (num.log2p1 a)) Laws.FixedBits.flog,
    .of_fp2 (res := fun num a => some (num.exp2m1 a)) Laws.FixedBits.fexp⟩

/-- Settles O25: the two-word accesses answer, and what follows them replaces the flags, and G for `ld`. -/
theorem floatLoadAndStoreMoveTwoWords : Obligations.FloatLoadAndStoreMoveTwoWords := fun x g _ =>
  ⟨.of_fixedBits (Laws.FixedBits.fld x g), .of_fixedBits (Laws.FixedBits.fst x g), fun _ _ => execFld_givesF g,
    execFst_of_storable g⟩

/-- Settles O27: each writes one pattern back with its flags. -/
theorem floatMovesAndConstantsGiveTheirPatterns : Obligations.FloatMovesAndConstantsGiveTheirPatterns :=
  ⟨fun f g s => ⟨.of_fixedBits (Laws.FixedBits.fcp f g), s.givesF_putF g _⟩,
    .of_givesF Laws.FixedBits.fneg fun f s => s.givesF_putF f _,
    .of_givesF Laws.FixedBits.fabs fun f s => s.givesF_putF f _,
    .of_givesF Laws.FixedBits.fclr fun f s => s.givesF_writeBackF f _ _,
    .of_givesF Laws.FixedBits.fpi fun f s => s.givesF_writeF f _,
    .of_givesF Laws.FixedBits.fe fun f s => s.givesF_writeF f _⟩

end Sys2Proof.Proofs

/-! The conversions between integers and floating-point numbers (44_fp2.md R209, R210): an integer is packed unrounded,
and a number is cut off to the integer part of its magnitude. -/

namespace Sys2Proof.Machine

/-! ## From integers (R209) -/

/-- A magnitude of at most 53 bits, in the range of the finite numbers, is packed as it is. -/
theorem roundPack_exact (sg : Bool) {m : ℕ} {e : ℤ} (hm : m ≠ 0) (hbits : m < 2 ^ 53) (he : -1074 ≤ e)
    (hsmall : (m * 2 ^ e : ℝ) < 2 ^ 1024 - 2 ^ 970) :
    FinitePattern (roundPack sg m e false) ∧ (fVal (roundPack sg m e false) : ℝ) = signed sg (m * 2 ^ e) := by
  have h := roundPack_isRounding e hm (by simp) (truncates_natCast m)
  have hfits : magBits (roundExp m e) (roundSig m e false) < 2047 * 2 ^ 52 :=
    not_le.1 (mt h.overflow_iff.1 hsmall.not_ge)
  have hk : magBits (roundExp m e) (roundSig m e false) < 2 ^ 63 := by omega
  have hexp : roundExp m e ≤ e := by
    have hlog := (Nat.log2_lt hm).2 hbits
    rw [roundExp]
    omega
  have hsig : (roundSig m e false * 2 ^ roundExp m e : ℝ) = m * 2 ^ e := by
    rw [roundSig, if_pos hexp, Nat.cast_mul, Nat.cast_pow, Nat.cast_ofNat, ← mul_two_zpow_div_of_le _ hexp,
      div_mul_cancel₀ _ (two_zpow_pos _).ne']
  rw [roundPack_eq, if_neg hfits.not_ge]
  constructor
  · rw [finitePattern_iff, fExp_pack sg hk]
    omega
  · rw [fVal_eq_signed, fSign_pack sg hk, h.fMag_pack sg hfits, hsig]

theorem two_pow_le_threshold : (2 : ℝ) ^ 970 ≤ 2 ^ 1024 - 2 ^ 970 := by
  rw [le_sub_iff_add_le, ← two_mul, ← pow_succ']
  exact pow_le_pow_right₀ one_le_two (by omega)

theorem fpOfInt_zero : fpOfInt 0 = 0 := rfl

theorem fpOfInt_exact (v : Word) : FinitePattern (fpOfInt v) ∧ fVal (fpOfInt v) = v.toInt := by
  by_cases hv : v = 0
  · subst hv
    exact ⟨by unfold FinitePattern; decide, (fVal_eq_zero_iff _).2 (by decide)⟩
  · have hne : v.toInt.natAbs ≠ 0 := by
      rw [Int.natAbs_ne_zero, ← BitVec.toInt_zero (w := 32)]
      exact mt BitVec.eq_of_toInt_eq hv
    have hlt : v.toInt.natAbs < 2 ^ 53 := by
      have hlow := v.le_toInt
      have hhigh := v.toInt_lt
      omega
    have hsmall : (v.toInt.natAbs * 2 ^ (0 : ℤ) : ℝ) < 2 ^ 1024 - 2 ^ 970 := by
      have hcast : (v.toInt.natAbs : ℝ) < 2 ^ 53 := by exact_mod_cast hlt
      have hpow : (2 : ℝ) ^ 53 ≤ 2 ^ 970 := pow_le_pow_right₀ one_le_two (by omega)
      rw [zpow_zero, mul_one]
      exact hcast.trans_le (hpow.trans two_pow_le_threshold)
    obtain ⟨hfin, hval⟩ := roundPack_exact (decide (v.toInt < 0)) hne hlt (by norm_num) hsmall
    rw [zpow_zero, mul_one, signed_natAbs] at hval
    rw [fpOfInt, if_neg hv]
    exact ⟨hfin, by exact_mod_cast hval⟩

/-! ## To integers (R210) -/

theorem truncRat_of_nonneg {q : ℚ} (h : 0 ≤ q) : truncRat q = ⌊q⌋ := if_neg h.not_gt

theorem truncRat_of_nonpos {q : ℚ} (h : q ≤ 0) : truncRat q = ⌈q⌉ := by
  rcases h.lt_or_eq with hneg | rfl
  · exact if_pos hneg
  · rfl

/-- The sign stays and the magnitude is cut off. -/
theorem truncRat_of_signed {q : ℚ} {sg : Bool} {x : ℝ} (hx : 0 ≤ x) (hq : (q : ℝ) = signed sg x) :
    truncRat q = if sg then -⌊x⌋ else ⌊x⌋ := by
  cases sg with
  | false =>
    have hnonneg : (0 : ℝ) ≤ q := hq ▸ hx
    rw [truncRat_of_nonneg (by exact_mod_cast hnonneg), ← Rat.floor_cast (α := ℝ), hq]
    rfl
  | true =>
    have hnonpos : (q : ℝ) ≤ 0 := hq ▸ neg_nonpos.2 hx
    rw [truncRat_of_nonpos (by exact_mod_cast hnonpos), ← Rat.ceil_cast (α := ℝ), hq]
    exact Int.ceil_neg

theorem floor_fMag (d : Word64) :
    ⌊fMag d⌋ = ((if 0 ≤ fPow d then fMant d * 2 ^ (fPow d).toNat else fMant d / 2 ^ (-fPow d).toNat : ℕ) : ℤ) := by
  rw [fMag]
  split
  · next h =>
    obtain ⟨n, hn⟩ := Int.eq_ofNat_of_zero_le h
    rw [hn, zpow_natCast, Int.toNat_natCast]
    exact_mod_cast Int.floor_natCast _
  · next h =>
    obtain ⟨n, hn⟩ : ∃ n : ℕ, fPow d = -n := ⟨(-fPow d).toNat, by omega⟩
    rw [hn, zpow_neg, zpow_natCast, neg_neg, ← div_eq_mul_inv, Int.toNat_natCast, ← Nat.cast_ofNat,
      ← Nat.cast_pow, Int.floor_div_natCast, Int.floor_natCast, Int.natCast_ediv]

theorem truncRat_fVal (d : Word64) : truncRat (fVal d) = fTrunc d := by
  rw [truncRat_of_signed (fMag_nonneg d) (fVal_eq_signed d), floor_fMag]
  rfl

theorem fftoiRange_iff (t : Int) : Config.fftoiRange t = true ↔ -2 ^ 31 ≤ t ∧ t ≤ 2 ^ 31 - 1 := by
  simp [Config.fftoiRange]

/-- The operand truncates to an integer that a signed word holds. -/
def TruncatesToWord (d : Word64) : Prop :=
  FinitePattern d ∧ -2 ^ 31 ≤ truncRat (fVal d) ∧ truncRat (fVal d) ≤ 2 ^ 31 - 1

theorem fpToInt_of_truncatesToWord {d : Word64} (h : TruncatesToWord d) :
    fpToInt d = some (BitVec.ofInt 32 (truncRat (fVal d))) := by
  obtain ⟨hfin, hrange⟩ := h
  rw [truncRat_fVal] at hrange ⊢
  rw [fpToInt, if_neg ((finitePattern_iff d).1 hfin), if_pos ((fftoiRange_iff _).2 hrange)]

theorem fpToInt_of_not_truncatesToWord {d : Word64} (h : ¬ TruncatesToWord d) : fpToInt d = none := by
  rw [TruncatesToWord, truncRat_fVal, finitePattern_iff, ← fftoiRange_iff] at h
  rw [fpToInt]
  by_cases hexp : fExp d = 2047
  · exact if_pos hexp
  · rw [if_neg hexp, if_neg fun hrange => h ⟨hexp, hrange⟩]

theorem execFftoi_of_some {f : FReg} (y : Reg) {s : State} {r : Word} (h : fpToInt (s.readF f) = some r) :
    GivesReg (execFftoi f y s) s y r (znv s.flags r false) := by
  rw [execFftoi, floatToInt, fpnum_toInt, h, ← Flags.setZNV_eq_znv]
  exact ⟨_, rfl, State.readReg_writeReg_same _ y r, s.changes_writeBack _ y r⟩

/-- Where there is no integer, the word is drawn (U6). -/
theorem execFftoi_of_none {f : FReg} (y : Reg) {s : State} (h : fpToInt (s.readF f) = none) :
    ∃ t r, execFftoi f y s = .next t ∧ t.readReg y = r ∧ Changes s t [y] (znv s.flags r true) [] [] 1 := by
  rw [execFftoi, floatToInt, fpnum_toInt, h]
  refine ⟨_, s.drawWord.1, rfl, State.readReg_writeReg_same _ y _, ?_⟩
  rw [← Flags.setZNV_eq_znv]
  exact (s.changes_draws 1).trans (State.changes_writeBack _ _ y _)

end Sys2Proof.Machine

namespace Sys2Proof.Proofs
open Sys2Proof.Machine

/-- Settles O28: `fitof` packs its integer unrounded, and the truncated magnitude is the one of the value. -/
theorem conversionsAreExactAndWriteTheirFlags : Obligations.ConversionsAreExactAndWriteTheirFlags := by
  refine ⟨fun x g s => ⟨.of_fixedBits (Laws.FixedBits.fitof x g), ?_⟩,
    fun f y s => ⟨.of_fixedBits (Laws.FixedBits.fftoi f y), fun h => ?_, fun h => ?_⟩⟩
  · obtain ⟨hfin, hval⟩ := fpOfInt_exact (s.readReg x)
    exact ⟨_, hfin, hval, fun h => by rw [h]; exact fpOfInt_zero, s.givesF_writeBackF g _ _⟩
  · exact execFftoi_of_some y (fpToInt_of_truncatesToWord h)
  · exact execFftoi_of_none y (fpToInt_of_not_truncatesToWord h)

end Sys2Proof.Proofs

/-! The comparison of floating-point numbers (44_fp2.md R216): the value, infinities included, is a strictly
increasing function of the integer that orders the patterns. -/

namespace Sys2Proof.Machine

/-! ## The value as a function of the order -/

/-- The magnitude of the pattern with bits 62:0 `k`, as if no exponent stood for infinities and NaNs. -/
noncomputable def keyMag (k : ℕ) : ℝ :=
  if k / 2 ^ 52 = 0 then (k % 2 ^ 52 : ℕ) * 2 ^ (-1074 : ℤ)
  else (2 ^ 52 + k % 2 ^ 52 : ℕ) * 2 ^ ((k / 2 ^ 52 : ℕ) - 1075 : ℤ)

/-- Bits 62:0 are the exponent and the fraction. -/
theorem toNat_mod_eq_fields (d : Word64) : d.toNat % 2 ^ 63 = fExp d * 2 ^ 52 + fFrac d := by
  rw [fExp, fFrac]
  omega

theorem fMag_eq_keyMag (d : Word64) : fMag d = keyMag (d.toNat % 2 ^ 63) := by
  have hfrac := fFrac_lt d
  have hdiv : d.toNat % 2 ^ 63 / 2 ^ 52 = fExp d := by rw [toNat_mod_eq_fields]; omega
  have hmod : d.toNat % 2 ^ 63 % 2 ^ 52 = fFrac d := by rw [toNat_mod_eq_fields]; omega
  rw [keyMag, hdiv, hmod]
  split
  · next h => exact fMag_of_fExp_eq_zero h
  · next h => exact fMag_of_fExp_ne_zero h

/-- The next pattern is the next number: its fraction is one larger, or it is the first one of the next exponent. -/
theorem keyMag_strictMono : StrictMono keyMag := by
  refine strictMono_nat_of_lt_succ fun k => ?_
  have hdiv := Nat.div_add_mod k (2 ^ 52)
  have hmod := Nat.mod_lt k (show 0 < 2 ^ 52 by decide)
  unfold keyMag
  generalize k / 2 ^ 52 = e at *
  generalize k % 2 ^ 52 = m at *
  rcases Nat.lt_or_eq_of_le (Nat.succ_le_of_lt hmod) with hnext | hlast
  · have he : (k + 1) / 2 ^ 52 = e := by omega
    have hm : (k + 1) % 2 ^ 52 = m + 1 := by omega
    rw [he, hm]
    split
    · exact mul_lt_mul_of_pos_right (by exact_mod_cast m.lt_succ_self) (two_zpow_pos _)
    · exact mul_lt_mul_of_pos_right (by exact_mod_cast (2 ^ 52 + m).lt_succ_self) (two_zpow_pos _)
  · have he : (k + 1) / 2 ^ 52 = e + 1 := by omega
    have hm : (k + 1) % 2 ^ 52 = 0 := by omega
    rw [he, hm, if_neg e.succ_ne_zero]
    split
    · next h0 =>
      subst h0
      exact mul_lt_mul_of_pos_right (by exact_mod_cast hmod) (two_zpow_pos _)
    · have hexp : ((e + 1 : ℕ) : ℤ) - 1075 = e - 1075 + (1 : ℕ) := by push_cast; ring
      have hsig : ((2 ^ 52 + m : ℕ) : ℝ) < (2 ^ 52 + 0 : ℕ) * 2 ^ 1 := by
        exact_mod_cast (by omega : 2 ^ 52 + m < 2 ^ 53)
      rw [hexp, zpow_add_nat, mul_left_comm, mul_comm]
      exact mul_lt_mul_of_pos_left hsig (two_zpow_pos _)

/-- The value of the pattern of order `i`. -/
noncomputable def keyVal (i : ℤ) : ℝ := keyMag i.toNat - keyMag (-i).toNat

theorem keyVal_strictMono : StrictMono keyVal := by
  intro i j hij
  have hmono := keyMag_strictMono
  have hup : keyMag i.toNat ≤ keyMag j.toNat := hmono.monotone (by omega)
  have hdown : keyMag (-j).toNat ≤ keyMag (-i).toNat := hmono.monotone (by omega)
  rw [keyVal, keyVal]
  rcases (by omega : i.toNat < j.toNat ∨ (-j).toNat < (-i).toNat) with hlt | hlt
  · linarith [hmono hlt]
  · linarith [hmono hlt]

theorem keyVal_natCast (k : ℕ) : keyVal k = keyMag k := by simp [keyVal, keyMag]

theorem keyVal_neg (i : ℤ) : keyVal (-i) = -keyVal i := by simp [keyVal]

theorem fVal_eq_keyVal (d : Word64) : (fVal d : ℝ) = keyVal (orderKey d) := by
  rw [fVal_eq_signed, fMag_eq_keyMag, orderKey, signed]
  split
  · rw [keyVal_neg, keyVal_natCast]
  · rw [keyVal_natCast]

/-! ## Infinities -/

/-- The order of +infinity. -/
def infKey : ℤ := 2047 * 2 ^ 52

/-- A NaN lies beyond the infinities, which no other pattern does. -/
theorem toNat_mod_le_of_not_nan {d : Word64} (h : ¬ NanPattern d) : d.toNat % 2 ^ 63 ≤ 2047 * 2 ^ 52 := by
  rw [← isNan_eq_true_iff, isNan, Bool.and_eq_true, decide_eq_true_iff, decide_eq_true_iff] at h
  rw [toNat_mod_eq_fields]
  have hexp : fExp d < 2 ^ 11 := Nat.mod_lt _ (by decide)
  have hfrac := fFrac_lt d
  omega

theorem orderKey_mem_Icc {d : Word64} (h : ¬ NanPattern d) : orderKey d ∈ Set.Icc (-infKey) infKey := by
  have hle := toNat_mod_le_of_not_nan h
  rw [Set.mem_Icc, orderKey, infKey]
  split <;> omega

theorem toNat_infOf (sg : Bool) : (infOf sg).toNat = sg.toNat * 2 ^ 63 + 2047 * 2 ^ 52 := toNat_pack sg (by decide)

theorem infKey_le_orderKey_iff {d : Word64} (h : ¬ NanPattern d) : infKey ≤ orderKey d ↔ d = infOf false := by
  have hle := toNat_mod_le_of_not_nan h
  have hlt := d.isLt
  rw [← BitVec.toNat_inj, toNat_infOf, Bool.toNat_false, orderKey, infKey, fSign_eq_decide]
  simp only [decide_eq_true_iff]
  split <;> omega

theorem orderKey_le_neg_infKey_iff {d : Word64} (h : ¬ NanPattern d) : orderKey d ≤ -infKey ↔ d = infOf true := by
  have hle := toNat_mod_le_of_not_nan h
  have hlt := d.isLt
  rw [← BitVec.toNat_inj, toNat_infOf, Bool.toNat_true, orderKey, infKey, fSign_eq_decide]
  simp only [decide_eq_true_iff]
  split <;> omega

/-- The value of the pattern of order `i`, infinities included. -/
noncomputable def keyExt (i : ℤ) : EReal := if infKey ≤ i then ⊤ else if i ≤ -infKey then ⊥ else (keyVal i : ℝ)

theorem keyExt_strictMonoOn : StrictMonoOn keyExt (Set.Icc (-infKey) infKey) := by
  rintro i ⟨hi, -⟩ j ⟨-, hj⟩ hij
  have hi' : ¬ infKey ≤ i := (hij.trans_le hj).not_ge
  have hj' : ¬ j ≤ -infKey := (hi.trans_lt hij).not_ge
  rw [keyExt, keyExt, if_neg hi', if_neg hj']
  split <;> split
  · exact bot_lt_top
  · exact EReal.bot_lt_coe _
  · exact EReal.coe_lt_top _
  · exact EReal.coe_lt_coe (keyVal_strictMono hij)

theorem fExt_eq_keyExt {d : Word64} (h : ¬ NanPattern d) : fExt d = keyExt (orderKey d) := by
  simp only [keyExt, infKey_le_orderKey_iff h, orderKey_le_neg_infKey_iff h, ← fVal_eq_keyVal]
  rfl

section
variable {a b : Word64} (ha : ¬ NanPattern a) (hb : ¬ NanPattern b)
include ha hb

theorem orderKey_lt_iff : orderKey a < orderKey b ↔ fExt a < fExt b := by
  rw [fExt_eq_keyExt ha, fExt_eq_keyExt hb]
  exact (keyExt_strictMonoOn.lt_iff_lt (orderKey_mem_Icc ha) (orderKey_mem_Icc hb)).symm

theorem orderKey_eq_iff : orderKey a = orderKey b ↔ fExt a = fExt b := by
  rw [fExt_eq_keyExt ha, fExt_eq_keyExt hb]
  exact (keyExt_strictMonoOn.injOn.eq_iff (orderKey_mem_Icc ha) (orderKey_mem_Icc hb)).symm

end

/-! ## The flags of the comparison -/

section
variable (fl : Flags) (a b : Word64)

theorem not_isNan_or_and_decide_iff (p : Prop) [Decidable p] :
    (!(isNan a || isNan b) && decide p) = true ↔ ¬ NanPattern a ∧ ¬ NanPattern b ∧ p := by
  rw [Bool.and_eq_true, Bool.not_eq_true', ← Bool.not_eq_true, Bool.or_eq_true, not_or, isNan_eq_true_iff,
    isNan_eq_true_iff, decide_eq_true_iff, and_assoc]

theorem Flags.setFcmp_fnan_iff : (fl.setFcmp a b).fnan = true ↔ NanPattern a ∨ NanPattern b := by
  rw [← isNan_eq_true_iff, ← isNan_eq_true_iff, ← Bool.or_eq_true]
  rfl

theorem Flags.setFcmp_fz_iff :
    (fl.setFcmp a b).fz = true ↔ ¬ NanPattern a ∧ ¬ NanPattern b ∧ fExt a = fExt b :=
  (not_isNan_or_and_decide_iff a b (orderKey a = orderKey b)).trans
    (and_congr_right fun ha => and_congr_right fun hb => orderKey_eq_iff ha hb)

theorem Flags.setFcmp_fn_iff :
    (fl.setFcmp a b).fn = true ↔ ¬ NanPattern a ∧ ¬ NanPattern b ∧ fExt a < fExt b :=
  (not_isNan_or_and_decide_iff a b (orderKey a < orderKey b)).trans
    (and_congr_right fun ha => and_congr_right fun hb => orderKey_lt_iff ha hb)

end

end Sys2Proof.Machine

namespace Sys2Proof.Proofs
open Sys2Proof.Machine

/-- Settles O29: the keys that `fcmp` compares are ordered as the values are. -/
theorem floatCompareOrdersValues : Obligations.FloatCompareOrdersValues := by
  intro f g s
  refine ⟨.of_fixedBits (Laws.FixedBits.fcmp f g), _, rfl, ?_⟩
  rw [State.setFlags_flags]
  exact ⟨Flags.setFcmp_fnan_iff _ _ _, Flags.setFcmp_fz_iff _ _ _, Flags.setFcmp_fn_iff _ _ _, s.changes_setFlags _⟩

end Sys2Proof.Proofs

/-! The push and pop of 64 bits (45_fp1.md R226, R227): a move of the current mode's stack pointer, with a two-word store
after it or the write-back of a pattern. -/

namespace Sys2Proof.Machine

/-! ## `push2` and `pop2` on the current mode's stack (R55, R57) -/

/-- A two-word push that is admitted completes: the pointer moves, and the two words below it are stored. -/
theorem State.push2_of_storable {s : State} (d : Word64) (hfirst : Storable s (s.readReg 30 - 2))
    (hsecond : Storable s (s.readReg 30 - 1)) :
    ∃ t, s.push2 d = .next t ∧ t.readReg 30 = s.readReg 30 - 2 ∧
      Changes s t [30] s.flags []
        [(s.readReg 30 - 2, d.extractLsb' 32 32), (s.readReg 30 - 1, d.extractLsb' 0 32)] 0 := by
  have haddr : s.readReg 30 - 2 + 1 = s.readReg 30 - 1 := by bv_omega
  obtain ⟨t, ht⟩ : ∃ t, s.push2 d = .next t := ⟨_, State.push2_eq_next.2 ⟨hfirst, haddr.symm ▸ hsecond, rfl⟩⟩
  have hstore := State.changes_of_writeMem2 ht
  rw [pushAddr_eq, spReg, spPushed_eq, State.writeReg_flags, haddr] at hstore
  refine ⟨t, ht, ?_, (s.changes_writeReg 30 _).trans hstore⟩
  obtain ⟨⟨hregs, -⟩, -⟩ := hstore
  exact (hregs 30 (by simp)).trans (s.readReg_writeReg_same _ _)

/-- `pop` of 64 bits moves the pointer before it writes the popped pattern back. -/
theorem execFpop_of_readable (f : FReg) {s : State} {p q : Word} (hp : Readable s (s.readReg 30) p)
    (hq : Readable s (s.readReg 30 + 1) q) :
    execFpop f s = .next ((s.writeReg 30 (s.readReg 30 + 2)).putF f (p ++ q)) := by
  rw [execFpop, State.pop2_eq_next.2 ⟨⟨p, q, hp, hq, rfl⟩, rfl⟩, andThen_next, spReg]

@[simp] theorem State.putF_readReg (s : State) (j : FReg) (d : Word64) (i : Reg) :
    (s.putF j d).readReg i = s.readReg i := by
  rw [State.putF, State.setFlags_readReg, State.writeF_readReg]

end Sys2Proof.Machine

namespace Sys2Proof.Proofs
open Sys2Proof.Machine

/-- Settles O26: each of the two moves the stack pointer first; a two-word store or a write-back follows. -/
theorem floatPushAndPopMoveTwoWords : Obligations.FloatPushAndPopMoveTwoWords := by
  refine fun f s => ⟨.of_fixedBits (Laws.FixedBits.fpush f), .of_fixedBits (Laws.FixedBits.fpop f),
    State.push2_of_storable (s.readF f), fun p q hp hq =>
      ⟨_, execFpop_of_readable f hp hq, State.putF_readF _ f _, ?_, ?_⟩⟩
  · rw [State.putF_readReg, State.readReg_writeReg_same]
  · have hput := (s.writeReg 30 (s.readReg 30 + 2)).changes_putF f (p ++ q)
    rw [State.writeReg_flags] at hput
    exact (s.changes_writeReg 30 _).trans hput

end Sys2Proof.Proofs

/-! The SIMD space (46_simd.md): its one word, which no other format decodes to, and its registers, which no step
reaches. -/

namespace Sys2Proof.Laws
open Sys2Proof.Machine

/-! ## No other format gives the SIMD-space nop (R71, R240) -/

theorem ofTable_ne_ok {α : Type} {l : List α} {op : Nat} {f : α → Except DecodeError Instr} {i : Instr}
    (h : ∀ a ∈ l, f a ≠ .ok i) : ofTable l op f ≠ .ok i := fun he => by
  obtain ⟨a, ha, hf⟩ := ofTable_eq_ok he
  exact h a ha hf

theorem int2Regs_eq_ok {w : Word} {mk : Reg → Reg → Instr} {i : Instr} :
    int2Regs w mk = .ok i ↔ bits w 20 20 = 0 ∧ mk (regOf (bits w 25 21)) (regOf (bits w 19 15)) = i := by
  by_cases h : bits w 20 20 = 0 <;> simp [int2Regs, h]

theorem int1Reg_eq_ok {w : Word} {mk : Reg → Instr} {i : Instr} :
    int1Reg w mk = .ok i ↔ bits w 22 22 = 0 ∧ mk (regOf (bits w 4 0)) = i := by
  by_cases h : bits w 22 22 = 0 <;> simp [int1Reg, h]

theorem decodeInt3_ne_simdNop (w : Word) : decodeInt3 w ≠ .ok .simdNop := by
  rw [decodeInt3_eq]
  exact ofTable_ne_ok (by simp [int3Table])

theorem decodeInt2_ne_simdNop (w : Word) : decodeInt2 w ≠ .ok .simdNop := by
  rw [decodeInt2_eq]
  split
  · exact ofTable_ne_ok (by simp [int2RegTable, int2Regs_eq_ok])
  · exact ofTable_ne_ok (by simp [int2CountTable])

theorem decodeInt1_ne_simdNop (w : Word) : decodeInt1 w ≠ .ok .simdNop := by
  rw [decodeInt1_eq]
  split
  · exact ofTable_ne_ok (by simp [int1RegTable, int1Reg_eq_ok])
  · exact ofTable_ne_ok (by simp [int1TargetTable])

theorem decodeFp3_ne_simdNop (w : Word) : decodeFp3 w ≠ .ok .simdNop := by
  rw [decodeFp3_eq]
  exact ofTable_ne_ok (by simp [fp3Table])

theorem decodeFp2_ne_simdNop (w : Word) : decodeFp2 w ≠ .ok .simdNop := by
  rw [decodeFp2_eq]
  exact ofTable_ne_ok (by simp [fp2Table])

theorem decodeFp1_ne_simdNop (w : Word) : decodeFp1 w ≠ .ok .simdNop := by
  rw [decodeFp1_eq]
  exact ofTable_ne_ok (by simp [fp1Table, fp1Instr])

theorem decodeZero_ne_simdNop (w : Word) : decodeZero w ≠ .ok .simdNop := by
  rw [decodeZero_eq]
  exact ofTable_ne_ok (by simp [zeroTable])

/-! ## The one word of the SIMD space (R81, R240) -/

theorem decodeSimd_eq_ok {w : Word} {i : Instr} : decodeSimd w = .ok i ↔ bits w 22 0 = 0 ∧ .simdNop = i := by
  by_cases h : bits w 22 0 = 0 <;> simp [decodeSimd, h]

/-- The top nine bits and the rest make up a word. -/
theorem toNat_eq_bits (w : Word) : w.toNat = bits w 31 23 * 2 ^ 23 + bits w 22 0 := by
  have := w.isLt
  simp only [bits]
  omega

theorem decode_eq_simdNop_iff (w : Word) : decode w = .ok .simdNop ↔ w = 0x11000000 := by
  refine ⟨fun h => ?_, ?_⟩
  · obtain hp | hp | hp | hp | hp | hp | hp | hp | hp := format_cases w
    · exact absurd (decode_of_int3 hp ▸ h) (decodeInt3_ne_simdNop w)
    · exact absurd (decode_of_int2 hp ▸ h) (decodeInt2_ne_simdNop w)
    · exact absurd (decode_of_int1 hp ▸ h) (decodeInt1_ne_simdNop w)
    · exact absurd (decode_of_zero hp ▸ h) (decodeZero_ne_simdNop w)
    · exact absurd (decode_of_fp3 hp ▸ h) (decodeFp3_ne_simdNop w)
    · exact absurd (decode_of_fp2 hp ▸ h) (decodeFp2_ne_simdNop w)
    · exact absurd (decode_of_fp1 hp ▸ h) (decodeFp1_ne_simdNop w)
    · obtain ⟨hlow, -⟩ := decodeSimd_eq_ok.1 (decode_of_simd hp ▸ h)
      exact BitVec.eq_of_toNat_eq (by rw [toNat_eq_bits, hp, hlow]; rfl)
    · rw [decode_of_unassigned hp] at h
      cases h
  · rintro rfl
    exact decode_encode (i := .simdNop) rfl

end Sys2Proof.Laws

namespace Sys2Proof.Machine

/-- No instruction reaches the SIMD registers, the platform or the environment's schedule (R59, R242, R282). -/
theorem exec_sameRest {i : Instr} {s t : State} (h : exec i s = .next t) : SameRest s t := by
  obtain hk | ⟨-, rfl⟩ | ⟨n, -, rfl⟩ | ⟨-, rfl⟩ := exec_effect h
  · exact hk.rest
  · exact ⟨rfl, rfl, rfl, rfl, rfl⟩
  · simp [SameRest, State.withSupervisor]
  · exact ⟨rfl, rfl, rfl, rfl, rfl⟩

end Sys2Proof.Machine

namespace Sys2Proof.Proofs
open Sys2Proof.Machine

/-- Settles O47: by the three outcomes of a step, in each of which the arrivals take one entry of the schedule and
nothing else touches these fields. -/
theorem stepsNeverChangePlatformOrSimdRegisters : Obligations.StepsNeverChangePlatformOrSimdRegisters := by
  intro s t hstep
  obtain rfl | ⟨n, rest, -, -, rfl⟩ | ⟨w, i, -, -, -, hx⟩ := step_cases hstep
  · simp
  · simp
  · obtain ⟨hm, hirq, hmap, hvec, -⟩ := exec_sameRest hx
    simp [hm, hirq, hmap, hvec, State.acting_eq]

/-- Settles O31: the word of the SIMD-space nop is the only one of its format that decodes, and no other format gives
that instruction. -/
theorem nopInstructionsChangeNothing : Obligations.NopInstructionsChangeNothing :=
  ⟨rfl, rfl, .of_fixedBits Laws.FixedBits.nop, Laws.decode_eq_simdNop_iff, fun _ => ⟨rfl, rfl⟩⟩

end Sys2Proof.Proofs

/-! The zero-operand instructions that take a frame from the supervisor stack or leave one there (47_zero_operand.md R262,
R266, R267): what is popped is what the frame holds, so `ret` undoes `call` and `popu` undoes `pushu`. -/

namespace Sys2Proof.Machine

/-! ## Frames on the supervisor stack, popped (R57) -/

/-- The words from SSP up are popped in the order of their addresses. -/
theorem State.popAllS_of_readable {s : State} {w : Word} {d : Nat → Word} {n : Nat} (hw : Readable s s.ssp w)
    (hd : ∀ j < n, Readable s (s.ssp + BitVec.ofNat 32 (j + 1)) (d j)) :
    s.popAllS (n + 1) = .next (w :: (List.range n).map d, s.setSsp (s.ssp + BitVec.ofNat 32 (n + 1))) := by
  refine State.popAllS_eq_next.2 ⟨by simp, fun k hk => ?_, rfl⟩
  cases k with
  | zero => simpa using hw
  | succ k => simpa using hd k (by simpa using hk)

/-- A frame in memory is popped in the reverse of the order in which its words were pushed. -/
theorem State.popAllS_of_frame {s : State} {sp : Word} {l : List Word} (hssp : s.ssp = sp - BitVec.ofNat 32 l.length)
    (h : ∀ p ∈ frameBelow sp l, Readable s p.1 p.2) : s.popAllS l.length = .next (l.reverse, s.setSsp sp) := by
  refine State.popAllS_eq_next.2 ⟨l.length_reverse, fun k hk => ?_, by rw [hssp, BitVec.sub_add_cancel]⟩
  obtain ⟨n, hn⟩ : ∃ n, l.length = n + 1 + k := ⟨l.length - 1 - k, by rw [List.length_reverse] at hk; omega⟩
  have hplace : n < l.length := by omega
  have hword := h _ (List.getElem_mem ((length_frameBelow l sp).symm ▸ hplace))
  have haddr : s.ssp + BitVec.ofNat 32 k = sp - BitVec.ofNat 32 (n + 1) := by
    rw [hssp, hn, BitVec.ofNat_add (n + 1) k, ← sub_sub, BitVec.sub_add_cancel]
  have hval : l.reverse[k] = l[n] := by
    rw [List.getElem_reverse]
    congr 1
    omega
  rw [haddr, hval]
  rwa [getElem_frameBelow l sp hplace] at hword

/-- Words that were stored can be read as long as nothing else is stored. -/
theorem Stores.readable {s t u : State} {l : List (Word × Word)} (h : Stores s t l) (hst : ∀ p ∈ l, Storable s p.1)
    (hmap : u.memMap = s.memMap) (hmem : u.mem = t.mem) : ∀ p ∈ l, Readable u p.1 p.2 := by
  obtain ⟨hwords, -⟩ := h
  intro p hp
  obtain ⟨hkind, -⟩ := hst p hp
  exact ⟨hmap ▸ hkind, hmem ▸ hwords p hp⟩

/-- Of a bank in which one register is written, only that register can differ. -/
theorem OnlyBanks.of_set {s t : State} {n : Nat} {v : Word} (hn : n < 31) (hxu : t.xu = s.xu)
    (hxs : t.xs = s.xs.set n v) : OnlyBanks s t [] [n] := by
  refine ⟨fun k hlt _ => by rw [hxu], fun k hlt hk => ?_⟩
  have hne : n ≠ k := fun h => hk (List.mem_singleton.2 h.symm)
  simp only [hxs, Vector.getElem_set_ne hn hlt hne]

theorem State.onlyBanks_setSsp (s : State) (v : Word) : OnlyBanks s (s.setSsp v) [] [30] :=
  .of_set (by decide) rfl rfl

/-- SSP is register 30 of the supervisor's bank and of no other. -/
theorem State.setSsp_readReg (s : State) (v : Word) {k : Reg} (h : k ≠ 30) : (s.setSsp v).readReg k = s.readReg k := by
  by_cases hk : k.val < 31
  · have hne : 30 ≠ k.val := fun e => h (Fin.ext e.symm)
    cases hm : s.mode <;> simp [State.readReg_of_lt _ hk, State.bank, State.setSsp, hm, hne]
  · simp [State.readReg, hk, State.setSsp]

/-! ## `ret` (R262) -/

@[simp] theorem State.writeRegsDown_mem (s : State) (l : List Word) (i : Reg) : (s.writeRegsDown i l).mem = s.mem := by
  induction l generalizing s i with
  | nil => rfl
  | cons v rest ih => exact (ih _ _).trans (s.writeReg_mem i v)

/-- What `ret` does with the words it has popped: `l` goes to `%d7` and downwards, the flags come from `w`, and `pc` from
`%lr`. -/
def State.leaveCallee (s : State) (w : Word) (l : List Word) : State :=
  ((s.writeRegsDown 23 l).setFlags (flagsOfWord w)).writeReg pcReg (s.readReg 15)

theorem execRet_of_popAllS {s t : State} {w : Word} {l : List Word} (h : s.popAllS 9 = .next (w :: l, t)) :
    execRet s = .next (t.leaveCallee w l) := by
  obtain ⟨-, hlen⟩ := State.popAllS_shape h
  have hl : l.length = 8 := Nat.succ.inj hlen
  have hlr : (t.writeRegsDown 23 l).readReg lrReg = t.readReg 15 :=
    State.readReg_writeRegsDown_other t (by rw [hl]; decide) (.inr (by rw [hl]; decide))
  simp only [execRet, h, andThen_next, List.tail_cons, List.headD_cons, State.setFlags_readReg, hlr]
  rfl

section
variable (s : State) (w : Word) {l : List Word} (hl : l.length = 8)
include hl

theorem State.changes_leaveCallee :
    Changes s (s.leaveCallee w l) (regsDown 23 8 ++ [31]) (flagsOfWord w) [] [] 0 :=
  hl ▸ (s.changes_writeRegsDown 23 l).trans (State.changes_writeBack _ _ _ _)

theorem State.readReg_leaveCallee_data {k : Reg} {j : Nat} (hj : j < l.length) (hk : k.val + j = 23) :
    (s.leaveCallee w l).readReg k = l[j] := by
  have hpc : k ≠ pcReg := by rintro rfl; simp only [pcReg] at hk; omega
  rw [State.leaveCallee, State.readReg_writeReg_other _ _ hpc, State.setFlags_readReg,
    State.readReg_writeRegsDown_same s (by simp [hl]) hj hk]

/-- Leaving the callee leaves SSP and, of the banks, changes the current mode's `%d0` to `%d7`. -/
theorem State.onlyBanks_leaveCallee :
    OnlyBanks s (s.leaveCallee w l) (if s.mode = .user then dataNumbers else [])
      (if s.mode = .supervisor then dataNumbers else []) := by
  obtain ⟨hregs, -, -, -, -, ⟨hmode, -⟩, -⟩ := s.changes_leaveCallee w hl
  exact hregs.onlyBanks hmode (by decide)

theorem State.leaveCallee_ssp : (s.leaveCallee w l).ssp = s.ssp := by
  obtain ⟨-, hxs⟩ := s.onlyBanks_leaveCallee w hl
  exact hxs 30 (by decide) (by split <;> decide)

theorem State.readReg_leaveCallee_other {k : Reg} (hdata : k.val ∉ dataNumbers) (hpc : k ≠ 31) :
    (s.leaveCallee w l).readReg k = s.readReg k := by
  obtain ⟨⟨hregs, -⟩, -⟩ := s.changes_leaveCallee w hl
  have hout : ∀ k : Reg, k.val ∉ dataNumbers → k ≠ 31 → k ∉ regsDown 23 8 ++ [31] := by decide
  exact hregs k (hout k hdata hpc)

end

theorem State.leaveCallee_mem (s : State) (w : Word) (l : List Word) : (s.leaveCallee w l).mem = s.mem := by
  simp [State.leaveCallee]

theorem State.leaveCallee_pc (s : State) (w : Word) (l : List Word) : (s.leaveCallee w l).pc = s.readReg 15 := rfl

/-! ## `ret` after `call` (R180, R262) -/

theorem storable_of_execCall {x : Target} {s t : State} (h : execCall x s = .next t) :
    ∀ p ∈ callFrame s, Storable s p.1 := by
  obtain ⟨u, hu, -⟩ := andThen_eq_next.1 h
  obtain ⟨hst, -⟩ := State.pushAllS_eq_next.1 hu
  rwa [frameBelow_dataRegs] at hst

/-- Each data register stands, counted from `%d7` down, in the place of the word that `ret` restores it with. -/
theorem State.getElem_reverse_dataRegs (s : State) {k : Reg} (hk : k.val ∈ dataNumbers) :
    ∃ (j : Nat) (hj : j < s.dataRegs.reverse.length), k.val + j = 23 ∧ s.dataRegs.reverse[j] = s.readReg k := by
  have hrange : ∀ n ∈ dataNumbers, n ≤ 23 ∧ 23 - n < 8 := by decide
  obtain ⟨hle, hlt⟩ := hrange k.val hk
  have hcases : ∀ k : Reg, k.val ∈ dataNumbers →
      k = 16 ∨ k = 17 ∨ k = 18 ∨ k = 19 ∨ k = 20 ∨ k = 21 ∨ k = 22 ∨ k = 23 := by decide
  refine ⟨23 - k.val, hlt, Nat.add_sub_cancel' hle, ?_⟩
  obtain rfl | rfl | rfl | rfl | rfl | rfl | rfl | rfl := hcases k hk
  all_goals rfl

/-- Where the frame of a `call` from `s` is found again, `ret` takes the words that `call` saved. -/
theorem execRet_of_callFrame {s u : State} (hssp : u.ssp = s.ssp - 9) (h : ∀ p ∈ callFrame s, Readable u p.1 p.2) :
    execRet u = .next ((u.setSsp s.ssp).leaveCallee s.stWordNow s.dataRegs.reverse) := by
  rw [← frameBelow_dataRegs] at h
  exact execRet_of_popAllS (State.popAllS_of_frame hssp h)

/-! ## `pushu` (R266) -/

/-- The thirty-two pushes of `pushu` store its frame. -/
theorem frameBelow_userContext (s : State) :
    frameBelow s.ssp (s.xu.toList ++ [stWord .user s.stu]) = pushuFrame s := by
  refine List.ext_getElem (by simp [length_frameBelow, pushuFrame]) fun k hk _ => ?_
  have hlt : k < 32 := by simpa [length_frameBelow] using hk
  rw [getElem_frameBelow _ _ (by simpa using hlt)]
  obtain hk | rfl : k < 31 ∨ k = 31 := by omega
  · simp [pushuFrame, hk, List.getElem_append_left]
  · simp [pushuFrame, List.getElem_append_right]

/-- The supervisor's `%lr` receives an unspecified word (U5). -/
def State.forgetLr (s : State) : State := { s.drawWord.2 with xs := s.xs.set 15 s.drawWord.1 }

theorem State.onlyBanks_forgetLr (s : State) : OnlyBanks s s.forgetLr [] [15] :=
  .of_set (by decide) rfl rfl

theorem State.forgetLr_ssp (s : State) : s.forgetLr.ssp = s.ssp := by
  obtain ⟨-, hxs⟩ := s.onlyBanks_forgetLr
  exact hxs 30 (by decide) (by decide)

theorem supervisorOnly_of_supervisor {s : State} (hm : s.mode = .supervisor) (r : Result State) :
    supervisorOnly s r = r := by
  simp [supervisorOnly, hm]

/-- `pushu` completes exactly in supervisor mode where its pushes are admitted. -/
theorem execPushu_eq_next {s t : State} :
    execPushu s = .next t ↔
      s.mode = .supervisor ∧ (∀ p ∈ pushuFrame s, Storable s p.1) ∧ t = (s.withFrame (pushuFrame s)).forgetLr := by
  cases hm : s.mode with
  | user => simp [execPushu, supervisorOnly_of_user hm]
  | supervisor =>
    rw [execPushu, supervisorOnly_of_supervisor hm, ← frameBelow_userContext]
    constructor
    · intro h
      obtain ⟨u, hu, -⟩ := andThen_eq_next.1 h
      obtain ⟨hst, -⟩ := State.pushAllS_eq_next.1 hu
      rw [State.pushAllS_of_storable hst, andThen_next, Host.Outcome.next.injEq] at h
      exact ⟨rfl, hst, h.symm⟩
    · rintro ⟨-, hst, rfl⟩
      rw [State.pushAllS_of_storable hst, andThen_next]
      rfl

theorem State.stores_forgetLr (s : State) : Stores s s.forgetLr [] := ⟨by simp, fun _ _ => rfl, rfl⟩

/-- Once the pushes have stored the frame, only the supervisor's `%lr` is drawn. -/
theorem State.stores_pushuFrame (s : State) : Stores s (s.withFrame (pushuFrame s)).forgetLr (pushuFrame s) := by
  rw [← frameBelow_userContext]
  exact (s.stores_withFrame (by simp)).trans_nil (State.stores_forgetLr _)

theorem State.withPushuFrame_ssp (s : State) : (s.withFrame (pushuFrame s)).forgetLr.ssp = s.ssp - 32 := by
  rw [State.forgetLr_ssp, State.withFrame_ssp, ← frameBelow_userContext, length_frameBelow]
  simp

theorem OnlyBanks.mono {s t : State} {us us' ss ss' : List Nat} (h : OnlyBanks s t us ss) (hus : us ⊆ us')
    (hss : ss ⊆ ss') : OnlyBanks s t us' ss' := by
  obtain ⟨hxu, hxs⟩ := h
  exact ⟨fun k hlt hk => hxu k hlt fun hmem => hk (hus hmem), fun k hlt hk => hxs k hlt fun hmem => hk (hss hmem)⟩

/-! ## `popu` (R267) -/

/-- `popu` puts the words after the status word into the user's registers, from the last one down. -/
theorem execPopu_of_popAllS {s t : State} {w : Word} {l : List Word} (hm : s.mode = .supervisor)
    (h : s.popAllS 32 = .next (w :: l, t)) (hl : l.length = 31) :
    ∃ xu : Vector Word 31, execPopu s = .next { t with stu := flagsOfWord w, xu := xu } ∧
      ∀ k (hk : k < 31), xu[k] = l[30 - k] := by
  obtain ⟨xu, hxu, hwords, -⟩ := State.writeUserDown_spec (l := l) (t.setFlagsOf .user (flagsOfWord w)) (i := 30)
    (by decide) (by omega)
  refine ⟨xu, ?_, fun k hk => ?_⟩
  · rw [execPopu, supervisorOnly_of_supervisor hm, h, andThen_next, List.tail_cons, List.headD_cons, hxu]
    rfl
  · rw [← hwords (30 - k) (by omega)]
    congr 1
    omega

/-- Where the frame of a `pushu` from `s` is found again, `popu` takes the words that `pushu` saved. -/
theorem execPopu_of_pushuFrame {s u : State} (hm : u.mode = .supervisor) (hssp : u.ssp = s.ssp - 32)
    (h : ∀ p ∈ pushuFrame s, Readable u p.1 p.2) :
    execPopu u = .next { u.setSsp s.ssp with stu := s.stu, xu := s.xu } := by
  rw [← frameBelow_userContext] at h
  have hpop := State.popAllS_of_frame (by simpa using hssp) h
  rw [List.length_append, Vector.length_toList, List.length_singleton, List.reverse_append,
    List.reverse_singleton, List.singleton_append] at hpop
  obtain ⟨xu, hx, hwords⟩ := execPopu_of_popAllS hm hpop (by simp)
  have hxu : xu = s.xu := Vector.ext fun k hk => by
    rw [hwords k hk, List.getElem_reverse, Vector.getElem_toList]
    simp only [Vector.length_toList]
    congr 1
    omega
  rw [hx, hxu, flagsOfWord_stWord]

end Sys2Proof.Machine

namespace Sys2Proof.Proofs
open Sys2Proof.Machine

/-- Settles O35: the pops move SSP and leave the nine words, with which `ret` leaves the callee. -/
theorem retPopsTheCallFrame : Obligations.RetPopsTheCallFrame := by
  refine fun s w d => ⟨.of_fixedBits Laws.FixedBits.ret, fun hw hd => ?_⟩
  have hret := execRet_of_popAllS (State.popAllS_of_readable hw hd)
  have hl : ((List.range 8).map d).length = 8 := by simp
  have hdata (j : Nat) (hj : j < 8) (k : Reg) (hk : k.val + j = 23) :
      ((s.setSsp (s.ssp + 9)).leaveCallee w ((List.range 8).map d)).readReg k = d j := by
    rw [State.readReg_leaveCallee_data _ _ hl (by simpa using hj) hk]
    simp
  obtain ⟨-, hflags, hf, hstores, hdraws, hcontrol, hrest⟩ := (s.setSsp (s.ssp + 9)).changes_leaveCallee w hl
  exact ⟨_, hret, (State.leaveCallee_pc _ _ _).trans (s.setSsp_readReg _ (by decide)),
    (State.leaveCallee_ssp _ w hl).trans (s.setSsp_ssp _),
    hdata 0 (by decide) 23 rfl, hdata 1 (by decide) 22 rfl, hdata 2 (by decide) 21 rfl, hdata 3 (by decide) 20 rfl,
    hdata 4 (by decide) 19 rfl, hdata 5 (by decide) 18 rfl, hdata 6 (by decide) 17 rfl, hdata 7 (by decide) 16 rfl,
    (s.onlyBanks_setSsp _).trans (State.onlyBanks_leaveCallee _ w hl), hflags, hf, hstores, hdraws, hcontrol, hrest⟩

/-- Settles O39: the pushes store the frame, and what follows them only draws the supervisor's `%lr`. -/
theorem pushuSavesTheUserContext : Obligations.PushuSavesTheUserContext := by
  refine fun s => ⟨.of_fixedBits Laws.FixedBits.pushu, fun hm h => ?_⟩
  have hbanks := (s.onlyBanks_withFrame (pushuFrame s)).trans (State.onlyBanks_forgetLr _)
  exact ⟨_, execPushu_eq_next.2 ⟨hm, h, rfl⟩, s.withPushuFrame_ssp, hbanks.mono (by simp) (by simp), rfl, rfl, rfl,
    fun _ _ => rfl, s.stores_pushuFrame, rfl, ⟨rfl, rfl, rfl⟩, rfl, rfl, rfl, rfl, rfl⟩

/-- Settles O40: the pops move SSP, and the popped words go to the user's flags and registers. -/
theorem popuLoadsTheUserContext : Obligations.PopuLoadsTheUserContext := by
  refine fun s w d => ⟨.of_fixedBits Laws.FixedBits.popu, fun hm hw hd => ?_⟩
  obtain ⟨xu, hpopu, hwords⟩ := execPopu_of_popAllS hm (State.popAllS_of_readable hw hd) (by simp)
  obtain ⟨-, hxs⟩ := s.onlyBanks_setSsp (s.ssp + 32)
  exact ⟨_, hpopu, rfl, fun k hk => by simp [hwords k hk], s.setSsp_ssp _, fun k hk hne => hxs k hk (by simpa using hne),
    rfl, rfl, fun _ _ => rfl, ⟨by simp, fun _ _ => rfl, rfl⟩, rfl, ⟨rfl, rfl, rfl⟩, rfl, rfl, rfl, rfl, rfl⟩

/-- Settles O51: `ret` finds the frame that `call` stored. -/
theorem retUndoesCall : Obligations.RetUndoesCall := by
  intro x s t u hcall humode humem humap hussp hulr
  have hst := storable_of_execCall hcall
  obtain ⟨-, hcallFrame⟩ := callSavesAndClearsTheDataRegisters x s
  obtain ⟨t', ht', -, hlr, hssp, -, -, -, -, hstores, -, ⟨hmode, -⟩, -, -, hmap, -⟩ := hcallFrame hst
  obtain rfl : t' = t := Host.Outcome.next.inj (ht'.symm.trans hcall)
  have hret := execRet_of_callFrame (hussp.trans hssp) (hstores.readable hst (humap.trans hmap) humem)
  have hl : s.dataRegs.reverse.length = 8 := rfl
  obtain ⟨-, ⟨hflags, -⟩, -, -, -, ⟨hvmode, -⟩, -⟩ := (u.setSsp s.ssp).changes_leaveCallee s.stWordNow hl
  refine ⟨_, hret, ?_, hvmode.trans (humode.trans hmode), hflags.trans (flagsOfWord_stWord _ _),
    (State.leaveCallee_ssp _ _ hl).trans (u.setSsp_ssp _), fun k hk => ?_, fun k hdata hsp hpc => ?_,
    State.leaveCallee_mem _ _ _⟩
  · rw [State.leaveCallee_pc, u.setSsp_readReg _ (by decide), hulr, hlr]
  · obtain ⟨j, hj, hplace, hval⟩ := s.getElem_reverse_dataRegs hk
    rw [State.readReg_leaveCallee_data _ _ hl hj hplace, hval]
  · rw [State.readReg_leaveCallee_other _ _ hl hdata hpc, u.setSsp_readReg _ hsp]

/-- Settles O52: `popu` finds the frame that `pushu` stored. -/
theorem popuUndoesPushu : Obligations.PopuUndoesPushu := by
  intro s t u hpushu humode humem humap hussp
  obtain ⟨-, hst, rfl⟩ := execPushu_eq_next.1 hpushu
  have hpopu := execPopu_of_pushuFrame humode (hussp.trans s.withPushuFrame_ssp)
    (s.stores_pushuFrame.readable hst humap humem)
  obtain ⟨-, hxs⟩ := u.onlyBanks_setSsp s.ssp
  exact ⟨_, hpopu, rfl, rfl, u.setSsp_ssp _, rfl, hxs 15 (by decide) (by decide), humode⟩

end Sys2Proof.Proofs

/-! The other zero-operand instructions (47_zero_operand.md): the status word on the current stack, the flags, the returns
through `%lr`, and `int` and `stop` with the step that follows them. -/

namespace Sys2Proof.Machine

/-! ## Status word and flags (R247 to R256) -/

theorem execPops_of_readable {s : State} {w : Word} (h : Readable s (s.readReg 30) w) :
    execPops s = .next ((s.writeReg 30 (s.readReg 30 + 1)).setFlags (flagsOfWord w)) := by
  rw [execPops, State.pop_of_readable h, andThen_next]

/-- An instruction that only replaces the flags in force by `fl` of them meets the rule. -/
theorem FlagRule.of_setFlags {i : Instr} {op : Nat} {fl : Flags → Flags} (hbits : Laws.FixedBits.Statement i)
    (hrow : Laws.fixedBits i = [(31, 23, op)] := by rfl)
    (hexec : ∀ s, exec i s = .next (s.setFlags (fl s.flags)) := by intros; rfl) : FlagRule i op fl :=
  fun s => ⟨.of_fixedBits hbits (by simp [hrow]), _, hexec s, s.changes_setFlags _⟩

/-! ## `jsr` and `rts` (R260, R261) -/

theorem execJsr_eq (s : State) : execJsr s = .next ((s.writeReg 15 s.pc).writeReg pcReg (s.readReg 15)) := rfl

theorem execRts_eq (s : State) : execRts s = .next (s.writeReg pcReg (s.readReg 15)) := rfl

/-! ## `int` (R264) -/

/-- The number of an `int` stands in bits 22:15 of its word (R82). -/
theorem EncodesAs.int_number (n : Nat) : EncodesAs (.int n) 22 15 n := by
  intro hw
  have hn : n < 256 := of_decide_eq_true hw
  rw [encode_eq, encodeDiagram, bits, Laws.encZero_toNat (by decide) hn]
  omega

theorem copyLow_self (xs : Vector Word 31) : copyLow xs xs = xs :=
  Vector.ext fun k hk => by simp [getElem_copyLow]

/-- A request joins the buffer unless 256 entries are there, and nothing else changes (R283). -/
theorem State.enqueue_eq (s : State) (n : BitVec 8) :
    s.enqueue n = { s with ibuf := if s.ibuf.length < 256 then s.ibuf ++ [n] else s.ibuf } := by
  by_cases h : s.ibuf.length < 256
  · simp [State.enqueue, Config.ibufDepth, h]
  · simp [State.enqueue, Config.ibufDepth, h]

/-- What joins the buffer leaves its oldest entry in front. -/
theorem State.enqueueAll_ibuf_of_cons {s : State} {n : BitVec 8} {rest : List (BitVec 8)} (h : s.ibuf = n :: rest)
    (l : List (BitVec 8)) : ∃ rest', (s.enqueueAll l).ibuf = n :: rest' := by
  induction l generalizing s rest with
  | nil => exact ⟨rest, h⟩
  | cons a l ih =>
    have hnext : ∃ rest', (s.enqueue a).ibuf = n :: rest' := by
      rw [State.enqueue_eq, h]
      split
      · exact ⟨rest ++ [a], rfl⟩
      · exact ⟨rest, rfl⟩
    obtain ⟨rest', hrest⟩ := hnext
    exact ih hrest

theorem State.arriveBetween_ibuf_of_cons {s : State} {n : BitVec 8} {rest : List (BitVec 8)} (h : s.ibuf = n :: rest) :
    ∃ rest', s.arriveBetween.ibuf = n :: rest' := by
  unfold State.arriveBetween
  split
  · exact ⟨rest, h⟩
  · exact State.enqueueAll_ibuf_of_cons h _

/-- In user mode a step delivers the oldest entry of the buffer, whatever arrives (R284, R285). -/
theorem step_of_user_pending {s : State} {n : BitVec 8} {rest : List (BitVec 8)} (hm : s.mode = .user)
    (hb : s.ibuf = n :: rest) : step s = .next (s.arriveBetween.wake.deliver n).arriveDuring := by
  obtain ⟨rest', hb'⟩ := State.arriveBetween_ibuf_of_cons hb
  refine step_of_pending ?_ (State.pendingInterrupt_eq_some.2 ⟨by simpa using hm, rest', by simpa using hb'⟩)
  simp [State.waits_eq, hb']

/-! ## `stop` and the silent environment (R265, R300) -/

theorem State.arriveBetween_of_silent {s : State} (h : s.extIrq = []) : s.arriveBetween = s := by
  simp [State.arriveBetween, h]

theorem State.arriveDuring_of_silent {s : State} (h : s.extIrq = []) : s.arriveDuring = s := by
  simp [State.arriveDuring, h]

/-- A pending entry ends the wait: the step is that of the core that does not wait. -/
theorem step_wake_of_pending {s : State} (hirq : s.extIrq = []) (hb : s.ibuf ≠ []) : step s = step s.wake := by
  have hw : s.waits = false := by simp [State.waits_eq, hb]
  have hw' : s.wake.waits = false := by simp [State.waits_eq, hb]
  have hirq' : s.wake.extIrq = [] := hirq
  have hwake : s.wake.wake = s.wake := rfl
  simp only [step, State.arriveBetween_of_silent hirq, State.arriveBetween_of_silent hirq', hw, hw', hwake,
    Bool.false_eq_true, if_false]

end Sys2Proof.Machine

namespace Sys2Proof.Proofs
open Sys2Proof.Machine

/-- Settles O32: a push of the status word, and a pop whose word becomes the flags. -/
theorem statusPushAndPopUseTheCurrentStack : Obligations.StatusPushAndPopUseTheCurrentStack := by
  refine fun s => ⟨.of_fixedBits Laws.FixedBits.pushs, .of_fixedBits Laws.FixedBits.pops,
    State.push_of_storable s.stWordNow, fun w h => ⟨_, execPops_of_readable h, ?_, ?_⟩⟩
  · rw [State.setFlags_readReg, State.readReg_writeReg_same]
  · exact (s.changes_writeReg 30 _).trans (State.changes_setFlags _ (flagsOfWord w))

/-- Settles O33: all eight replace the flags in force. -/
theorem flagInstructionsWriteOneFlag : Obligations.FlagInstructionsWriteOneFlag :=
  ⟨.of_setFlags Laws.FixedBits.clrz, .of_setFlags Laws.FixedBits.clrn, .of_setFlags Laws.FixedBits.clrc,
    .of_setFlags Laws.FixedBits.clrv, .of_setFlags Laws.FixedBits.setz, .of_setFlags Laws.FixedBits.setn,
    .of_setFlags Laws.FixedBits.setc, .of_setFlags Laws.FixedBits.setv⟩

/-- Settles O34: both are register writes, `%pc` being the last. -/
theorem subroutineInstructionsUseTheLinkRegister : Obligations.SubroutineInstructionsUseTheLinkRegister := by
  refine fun s => ⟨.of_fixedBits Laws.FixedBits.jsr, .of_fixedBits Laws.FixedBits.rts,
    ⟨_, execJsr_eq s, rfl, ?_, ?_⟩, ⟨_, execRts_eq s, rfl, s.changes_writeReg pcReg _⟩⟩
  · rw [State.readReg_writeReg_other _ _ (by decide), State.readReg_writeReg_same]
  · have hjump := (s.writeReg 15 s.pc).changes_writeReg pcReg (s.readReg 15)
    rw [State.writeReg_flags] at hjump
    exact (s.changes_writeReg 15 _).trans hjump

/-- Settles O36: `rti` is the return to user mode, and so is `user` where it is not refused. -/
theorem returnInstructionsEnterUserMode : Obligations.ReturnInstructionsEnterUserMode := by
  refine fun s => ⟨.of_fixedBits Laws.FixedBits.rti, .of_fixedBits Laws.FixedBits.user, rfl, fun hm => ?_⟩
  have hlr : s.readReg lrReg = s.xs[15] := by simp [State.readReg, State.bank, hm, lrReg]
  exact execUser_eq_next.2 ⟨hm, by rw [State.returnToUser, hlr]⟩

/-- Settles O37: the registers are those that `copyLow` copies, and the entry that joins an empty buffer is delivered. -/
theorem intCopiesArgumentsAndQueuesTheNumber : Obligations.IntCopiesArgumentsAndQueuesTheNumber := by
  refine fun n s _ => ⟨.of_fixedBits (Laws.FixedBits.int n), .int_number n, _, execInt_eq n s, fun k hk => ?_, ?_,
    fun k hk h8 => ?_, fun hm => ?_, fun hm hb => ?_⟩
  · simp [State.withSupervisor, getElem_copyLow, hk]
  · rw [State.enqueue_eq]
    rfl
  · simp [State.withSupervisor, getElem_copyLow, Nat.not_lt.2 h8]
  · simp [State.withSupervisor, State.bank, hm, copyLow_self]
  · rw [State.enqueue_eq]
    refine ⟨_, step_of_user_pending (n := BitVec.ofNat 8 n) (rest := []) hm ?_, ?_⟩
    · simp [State.withSupervisor, hb]
    · simp [State.withSupervisor, State.deliver, State.vecOf]

/-- Settles O38: with no arrivals, the buffer and the mode decide between the wait, the delivery and the instruction. -/
theorem stopWaitsForTheNextInterrupt : Obligations.StopWaitsForTheNextInterrupt := by
  refine fun s => ⟨.of_fixedBits Laws.FixedBits.stop, rfl, fun hs hirq => ⟨fun hb => ?_, fun n rest hm hb => ?_,
    fun _ hb => step_wake_of_pending hirq hb⟩⟩
  · have hsilent := State.arriveBetween_of_silent hirq
    have hw : s.arriveBetween.waits = true := State.waits_eq_true_iff.2 (hsilent.symm ▸ ⟨hs, hb⟩)
    rw [step_of_waits hw, hsilent, State.arriveDuring_of_silent hirq]
  · have hirq' : (s.wake.deliver n).extIrq = [] := hirq
    rw [step_of_user_pending hm hb, State.arriveBetween_of_silent hirq, State.arriveDuring_of_silent hirq']
    simp [State.deliver, State.wake, State.vecOf, hb]

/-- Settles O41: all three are supervisor only. -/
theorem supervisorOnlyInstructionsRefusedInUserMode : Obligations.SupervisorOnlyInstructionsRefusedInUserMode :=
  fun _ hm => ⟨supervisorOnly_of_user hm _, supervisorOnly_of_user hm _, supervisorOnly_of_user hm _⟩

end Sys2Proof.Proofs

/-! The interrupt buffer as a queue of at most 256 entries (60_exceptions.md R283), and what a delivery keeps of the
interrupted program for `rti` to resume (R285, R289). -/

namespace Sys2Proof.Machine

/-! ## The buffer as a queue (R283) -/

/-- A buffer within its depth takes the requests that still fit, in order, and nothing else changes. -/
theorem State.enqueueAll_eq (s : State) (l : List (BitVec 8)) (h : s.ibuf.length ≤ 256) :
    s.enqueueAll l = { s with ibuf := (s.ibuf ++ l).take 256 } := by
  induction l generalizing s with
  | nil => rw [List.append_nil, List.take_of_length_le h, State.enqueueAll]
  | cons n l ih =>
    rw [State.enqueueAll, ih _ (s.enqueue_length_le n h), State.enqueue_eq]
    by_cases hroom : s.ibuf.length < 256
    · simp only [if_pos hroom, List.append_assoc, List.singleton_append]
    · have hfull : 256 ≤ s.ibuf.length := Nat.not_lt.1 hroom
      simp only [if_neg hroom, List.take_append_of_le_length hfull]

/-! ## What a delivery keeps, and the return (R285, R289) -/

/-- In user mode a step with something pending after the arrivals delivers it. -/
theorem step_of_user_arrived {s : State} (hm : s.mode = .user) (hb : s.arriveBetween.ibuf ≠ []) :
    ∃ n, step s = .next (s.arriveBetween.wake.deliver n).arriveDuring := by
  obtain ⟨n, rest, hb'⟩ := List.exists_cons_of_ne_nil hb
  refine ⟨n, step_of_pending ?_ (State.pendingInterrupt_eq_some.2 ⟨by simpa using hm, rest, hb'⟩)⟩
  simp [State.waits_eq, hb']

/-- Delivery saves `pc` in the supervisor link register. -/
theorem State.deliver_xs_lr (s : State) (n : BitVec 8) : (s.deliver n).xs[15] = s.pc := by simp [State.deliver]

theorem execRti_eq (s : State) : exec .rti s = .next s.returnToUser := rfl

@[simp] theorem State.returnToUser_mode (s : State) : s.returnToUser.mode = .user := rfl

/-- The supervisor returns to the address in its own link register. -/
theorem State.returnToUser_pc_of_supervisor {s : State} (h : s.mode = .supervisor) : s.returnToUser.pc = s.xs[15] := by
  simp [State.returnToUser, State.readReg, State.bank, h, lrReg]

theorem State.flags_of_user {s : State} (h : s.mode = .user) : s.flags = s.stu := by simp [State.flags, h]

/-- In user mode the registers read are those of the user bank, and `pc` (R24). -/
theorem State.readReg_congr_of_user {s t : State} (hs : s.mode = .user) (ht : t.mode = .user) (hxu : t.xu = s.xu)
    (hpc : t.pc = s.pc) (k : Reg) : t.readReg k = s.readReg k := by
  by_cases hk : k.val < 31
  · simp [State.readReg, State.bank, hk, hs, ht, hxu]
  · simp [State.readReg, State.pcValue, hk, hpc]

end Sys2Proof.Machine

namespace Sys2Proof.Laws

/-- What encodes to a word is what the word decodes to. -/
theorem decode_of_encode_eq {w : Word} {i : Instr} (hw : encode i = w) (hi : i.wellFormed = true) :
    decode w = .ok i :=
  hw ▸ decode_encode hi

end Sys2Proof.Laws

namespace Sys2Proof.Proofs
open Sys2Proof.Machine

/-- Settles O53: a delivery writes `xs[15]` alone among the registers, and with it `rti` puts back `pc` and the mode. -/
theorem rtiResumesTheInterruptedProgram : Obligations.RtiResumesTheInterruptedProgram := by
  intro s t u hm hb hstep
  obtain ⟨n, hdeliver⟩ := step_of_user_arrived hm hb
  obtain rfl : (s.arriveBetween.wake.deliver n).arriveDuring = t := Host.Outcome.next.inj (hdeliver.symm.trans hstep)
  refine ⟨by simp, fun hu hlr hxu hstu => ⟨_, execRti_eq u, u.returnToUser_mode, ?_, fun k => ?_⟩⟩
  · rw [State.flags_of_user u.returnToUser_mode, State.flags_of_user hm]
    simpa using hstu
  · have hpc : u.returnToUser.pc = s.pc := by
      rw [State.returnToUser_pc_of_supervisor hu, hlr]
      simp [State.deliver_xs_lr]
    exact State.readReg_congr_of_user hm u.returnToUser_mode (by simpa using hxu) hpc k

/-- Settles O60: a delivery removes the head of the buffer, to whose end the requests were appended. -/
theorem interruptBufferIsFirstInFirstOut : Obligations.InterruptBufferIsFirstInFirstOut := by
  refine ⟨State.enqueueAll_eq, fun s n rest hm hirq hb => ⟨_, step_of_user_pending hm hb, ?_⟩⟩
  have hirq' : (s.wake.deliver n).extIrq = [] := hirq
  rw [State.arriveBetween_of_silent hirq, State.arriveDuring_of_silent hirq']
  exact ⟨congrArg List.tail hb, rfl⟩

/-- Settles O1: every part is a field of the reset state, `RESET_PC` its argument. -/
theorem resetLeavesSupervisorModeAndEmptyBuffer : Obligations.ResetLeavesSupervisorModeAndEmptyBuffer :=
  fun _ => ⟨rfl, rfl, rfl, rfl, rfl, rfl⟩

/-- Settles O3: each word is the encoding of its instruction, which is well formed, and decoding undoes encoding. -/
theorem sampleWordsDecodeToTheirInstructions : Obligations.SampleWordsDecodeToTheirInstructions := by
  and_intros <;> exact Laws.decode_of_encode_eq (by decide) (by decide)

end Sys2Proof.Proofs
